-- ==== Sys2Proof/Word.lean ====
section
/-! DEFINITION. The word types of the block: bytes, event words, the two lane widths. -/

namespace Sys2Proof

/-- A byte, bit 0 the least significant (R13). -/
abbrev Byte := BitVec 8

/-- A byte string: index 0 is the first byte received (R13, R50). -/
abbrev Bytes := List Byte

/-- A format-E event word (R80). -/
abbrev EventWord := BitVec 32

/-- A binary32 datum as its 32-bit pattern (R16). -/
abbrev F32 := BitVec 32

/-- A binary64 datum as its 64-bit pattern (R16). -/
abbrev F64 := BitVec 64

end Sys2Proof
end

