-- ==== Sys2Proof/Config.lean ====
section
/-! DEFINITION. The constants of R6, the parameters of R7 to R11, and the one free value. -/

namespace Sys2Proof

/-- FLAG, the frame marker (R6). -/
def flagByte : Byte := 0x7E

/-- ESC, the escape byte (R6). -/
def escByte : Byte := 0x7D

/-- MIN_BODY, the minimum length of an unstuffed body (R6). -/
def minBody : Nat := 5

/-- MEAS_PAYLOAD_LEN (R6). -/
def measPayloadLen : Nat := 40

/-- FW_PAYLOAD_LEN (R6). -/
def fwPayloadLen : Nat := 7

/-- The formats that `ACC_FORMAT` may name (R11). -/
inductive AccFormat where
  | binary32
  | binary64
deriving DecidableEq, Repr

/-- The parameters the block is built with (R7 to R11); no event reads them back or changes them (R20). -/
structure Config where
  /-- MAX_COLLECT, the most stuffed bytes held between two flags (R7). -/
  maxCollect : Nat
  /-- TICK_PERIOD in seconds is `tickNum / tickDen` (R8). -/
  tickNum : Nat
  /-- See `tickNum`. -/
  tickDen : Nat
  /-- THRESHOLD_TICKS, the burst threshold in ticks (R8). -/
  thresholdTicks : Nat
  /-- LEN_CHECK (R9). -/
  lenCheck : Bool
  /-- CHK_VERIFY (R10). -/
  chkVerify : Bool
  /-- ACC_FORMAT (R11). -/
  accFormat : AccFormat
deriving DecidableEq, Repr

/-- Every parameter at its default (R7 to R11). -/
def Config.default : Config where
  maxCollect := 512
  tickNum := 1
  tickDen := 1000000
  thresholdTicks := 80000
  lenCheck := false
  chkVerify := false
  accFormat := .binary32

/-- floor(0.08 s / TICK_PERIOD), the threshold R8 gives for a period. -/
def Config.thresholdFor (tickNum tickDen : Nat) : Nat := (8 * tickDen) / (100 * tickNum)

/-- The legal values of the parameters (R7, R8, R302 item 1).
DESIGN CHOICE, safe (log entry 10): the threshold is not required to be that of the period. -/
abbrev Config.Legal (c : Config) : Prop :=
  88 ≤ c.maxCollect ∧ c.thresholdTicks < 2 ^ 32 - 1 ∧ 0 < c.tickNum ∧ 0 < c.tickDen

/-- The threshold is the one R8 computes from the period. -/
abbrev Config.PeriodConsistent (c : Config) : Prop :=
  c.thresholdTicks = Config.thresholdFor c.tickNum c.tickDen

/-- A FREE VALUE (log entry 7): what `last_plen` holds after a frame whose payload has `n ≥ 2^16` bytes. R166 writes
`zext_16(len(p))`, and R14 states no value of zext_16 for a number that does not fit 16 bits. Safe: nothing in Lean can
evaluate it. -/
opaque Config.plenBeyond16 (n : Nat) : BitVec 16

end Sys2Proof
end

