-- ==== Sys2Proof/Syntax.lean ====
section
/-! DEFINITION. The rows of spec/opcode_table.json as one inductive: what the block decodes (R1, R70). -/

namespace Sys2Proof

/-- The block's "instructions" (R1): the wire bytes (format W), the units of a stuffed body (format B) and the event
words (format E), one constructor per row of the opcode table. -/
inductive Instr where
  /-- FLAG, the wire byte 0x7E (R131, R132). -/
  | flag
  /-- DATA, any other wire byte (R133, R134, R137). -/
  | data (b : Byte)
  /-- ESC_TRAILING, a 0x7D that is the last byte of the body (R107). -/
  | escTrailing
  /-- ESC_7E, the pair 7D 5E (R103). -/
  | esc7E
  /-- ESC_7D, the pair 7D 5D (R104). -/
  | esc7D
  /-- ESC_11, the pair 7D 31 (R105). -/
  | esc11
  /-- ESC_13, the pair 7D 33 (R106). -/
  | esc13
  /-- ESC_INVALID, 7D and a byte outside the escape table (R108). -/
  | escInvalid (c : Byte)
  /-- LITERAL, one byte other than 7D (R102). -/
  | literal (b : Byte)
  /-- RX, SOURCE delivers a byte (R81, R242). -/
  | rx (b : Byte)
  /-- START_READ in mode 0 MEAS (R82, R84, R244). -/
  | startMeas
  /-- START_READ in mode 1 FW (R82, R84, R244). -/
  | startFw
  /-- START_READ in mode 2 SERIAL (R82, R84, R244). -/
  | startSerial
  /-- TICK, time advances by n ticks (R83, R245). -/
  | tick (n : BitVec 24)
  /-- IO_ERROR, the source failed (R85, R246). -/
  | ioError
  /-- RESET (R86, R247). -/
  | reset
  /-- RESERVED, every other event word (R87, R248). -/
  | reserved (op : BitVec 8) (operand : BitVec 24)
deriving DecidableEq, Repr

/-- The three formats the opcode table's rows belong to (R70). -/
inductive Format where
  /-- W: one byte of the wire frame (R71). -/
  | wire
  /-- B: one unit of a stuffed body, one or two bytes (R72). -/
  | body
  /-- E: one 32-bit event word (R80). -/
  | event
deriving DecidableEq, Repr

/-- The format of an instruction's row. -/
def Instr.format : Instr → Format
  | .flag => .wire
  | .data _ => .wire
  | .escTrailing => .body
  | .esc7E => .body
  | .esc7D => .body
  | .esc11 => .body
  | .esc13 => .body
  | .escInvalid _ => .body
  | .literal _ => .body
  | .rx _ => .event
  | .startMeas => .event
  | .startFw => .event
  | .startSerial => .event
  | .tick _ => .event
  | .ioError => .event
  | .reset => .event
  | .reserved _ _ => .event

/-- The row's mnemonic in spec/opcode_table.json. -/
def Instr.mnemonic : Instr → String
  | .flag => "FLAG"
  | .data _ => "DATA"
  | .escTrailing => "ESC_TRAILING"
  | .esc7E => "ESC_7E"
  | .esc7D => "ESC_7D"
  | .esc11 => "ESC_11"
  | .esc13 => "ESC_13"
  | .escInvalid _ => "ESC_INVALID"
  | .literal _ => "LITERAL"
  | .rx _ => "RX"
  | .startMeas => "START_MEAS"
  | .startFw => "START_FW"
  | .startSerial => "START_SERIAL"
  | .tick _ => "TICK"
  | .ioError => "IO_ERROR"
  | .reset => "RESET"
  | .reserved _ _ => "RESERVED"

/-- The agents of R240. -/
inductive Agent where
  /-- The block itself: one core step per consumed byte. -/
  | block
  /-- HOST: START_READ and RESET. -/
  | host
  /-- SOURCE: RX and IO_ERROR. -/
  | source
  /-- CLOCK: TICK. -/
  | clock
deriving DecidableEq, Repr

/-- Who issues an instruction (R240). A reserved word is any agent's: every event is accepted from any agent (R284). -/
def Instr.issuer : Instr → Option Agent
  | .flag => some .block
  | .data _ => some .block
  | .escTrailing => some .block
  | .esc7E => some .block
  | .esc7D => some .block
  | .esc11 => some .block
  | .esc13 => some .block
  | .escInvalid _ => some .block
  | .literal _ => some .block
  | .rx _ => some .source
  | .startMeas => some .host
  | .startFw => some .host
  | .startSerial => some .host
  | .tick _ => some .clock
  | .ioError => some .source
  | .reset => some .host
  | .reserved _ _ => none

end Sys2Proof
end

