-- ==== Sys2Proof/WellFormed.lean ====
section
/-! DEFINITION. Which instruction terms stand for an encoding of the spec: the checks on each operand. -/

namespace Sys2Proof

/-- The second bytes of the four escape pairs (R73). -/
def isEscapeCode (c : Byte) : Bool := c = 0x5E || c = 0x5D || c = 0x31 || c = 0x33

/-- The event words that some row before RESERVED matches (R81 to R86). -/
def isDefinedEvent (op : BitVec 8) (operand : BitVec 24) : Bool :=
  (op = 0x01 && operand.toNat < 2 ^ 8)          -- RX: bits 23:8 are zero (R81)
  || (op = 0x02 && operand.toNat < 3)           -- START_READ: bits 23:2 are zero and the mode is not 3 (R82, R84)
  || op = 0x03                                  -- TICK: every operand (R83)
  || (op = 0x04 && operand = 0)                 -- IO_ERROR (R85)
  || (op = 0x05 && operand = 0)                 -- RESET (R86)

/-- The operand checks: DATA is not the flag (R90), LITERAL is not ESC (R102), ESC_INVALID's code is outside the table
(R108), RESERVED is matched by no earlier row (R87). Every other operand value is legal. -/
def Instr.wellFormed : Instr → Bool
  | .flag => true
  | .data b => b ≠ flagByte
  | .escTrailing => true
  | .esc7E => true
  | .esc7D => true
  | .esc11 => true
  | .esc13 => true
  | .escInvalid c => !isEscapeCode c
  | .literal b => b ≠ escByte
  | .rx _ => true
  | .startMeas => true
  | .startFw => true
  | .startSerial => true
  | .tick _ => true
  | .ioError => true
  | .reset => true
  | .reserved op operand => !isDefinedEvent op operand

end Sys2Proof
end

