-- ==== Sys2Proof/Decode.lean ====
section
/-! DEFINITION. The decoders of the three formats (R90) and, after them, the encoder, the opcode table's event rows as
masks and patterns, and the forward byte-stuffing (R114). -/

namespace Sys2Proof

/-- Why a decoder answers no instruction. -/
inductive DecodeError where
  /-- No byte is there to decode: the string is at its end. -/
  | noByte
  /-- The input's bits are not those of exactly one unit of the format. -/
  | notOneUnit
deriving DecidableEq, Repr

/-! ## Format W -/

/-- A wire byte: 0x7E is FLAG, anything else is DATA (R90). -/
def decodeWire (b : Byte) : Instr := if b = flagByte then .flag else .data b

/-! ## Format B -/

/-- The two-byte unit `7D c` (R73, R89), the rows tried in the table's order (R90). -/
def escapeUnit (c : Byte) : Instr :=
  if c = 0x5E then .esc7E
  else if c = 0x5D then .esc7D
  else if c = 0x31 then .esc11
  else if c = 0x33 then .esc13
  else .escInvalid c

/-- The unit at the head of what is left of a stuffed body, and what follows it (R90, R101). -/
def decodeUnit : Bytes → Except DecodeError (Instr × Bytes)
  | [] => .error .noByte
  | x :: rest =>
    if x = escByte then
      match rest with
      | [] => .ok (.escTrailing, [])
      | c :: rest' => .ok (escapeUnit c, rest')
    else .ok (.literal x, rest)

/-! ## Format E -/

/-- Bits 31:24, the event class (R80). -/
def eventOp (w : EventWord) : BitVec 8 := w.extractLsb' 24 8

/-- Bits 23:0, the operand (R80). -/
def eventOperand (w : EventWord) : BitVec 24 := w.extractLsb' 0 24

/-- RX's byte, bits 7:0 (R81, R88). -/
def rxByte (operand : BitVec 24) : Byte := operand.extractLsb' 0 8

/-- An event word, its rows tried in the table's order (R90); a word no row matches is RESERVED (R87). -/
def decodeEvent (w : EventWord) : Instr :=
  let op := eventOp w
  let operand := eventOperand w
  if op = 0x01 ∧ operand.extractLsb' 8 16 = 0 then .rx (rxByte operand)
  else if op = 0x02 ∧ operand = 0 then .startMeas
  else if op = 0x02 ∧ operand = 1 then .startFw
  else if op = 0x02 ∧ operand = 2 then .startSerial
  else if op = 0x03 then .tick operand
  else if op = 0x04 ∧ operand = 0 then .ioError
  else if op = 0x05 ∧ operand = 0 then .reset
  else .reserved op operand

/-! ## The decoder and the encoder of all three -/

/-- An encoding, in the format it is read in: which decoder reads it is decided by where it stands (R90), not by its bits. -/
inductive Encoded where
  | wire (b : Byte)
  | body (s : Bytes)
  | event (w : EventWord)
deriving DecidableEq, Repr

/-- The one instruction an encoding holds. A body string must be exactly one unit. -/
def decode : Encoded → Except DecodeError Instr
  | .wire b => .ok (decodeWire b)
  | .body s =>
    match decodeUnit s with
    | .ok (i, []) => .ok i
    | .ok (_, _ :: _) => .error .notOneUnit
    | .error e => .error e
  | .event w => .ok (decodeEvent w)

/-- `op ‖ operand` (R80). -/
def eventWord (op : BitVec 8) (operand : BitVec 24) : EventWord := op ++ operand

/-- The encoding of a well-formed instruction (R71 to R73, R81 to R87). -/
def encode : Instr → Encoded
  | .flag => .wire flagByte
  | .data b => .wire b
  | .escTrailing => .body [escByte]
  | .esc7E => .body [escByte, 0x5E]
  | .esc7D => .body [escByte, 0x5D]
  | .esc11 => .body [escByte, 0x31]
  | .esc13 => .body [escByte, 0x33]
  | .escInvalid c => .body [escByte, c]
  | .literal b => .body [b]
  | .rx b => .event (eventWord 0x01 (b.zeroExtend 24))
  | .startMeas => .event (eventWord 0x02 0)
  | .startFw => .event (eventWord 0x02 1)
  | .startSerial => .event (eventWord 0x02 2)
  | .tick n => .event (eventWord 0x03 n)
  | .ioError => .event (eventWord 0x04 0)
  | .reset => .event (eventWord 0x05 0)
  | .reserved op operand => .event (eventWord op operand)

/-- The units of a stuffed body in order, as the scan of R101 meets them; `n` bounds their number. -/
def bodyUnitsUpTo : Nat → Bytes → List Instr
  | 0, _ => []
  | n + 1, s =>
    match decodeUnit s with
    | .ok (i, rest) => i :: bodyUnitsUpTo n rest
    | .error _ => []

/-- All the units of a stuffed body (each takes at least one byte). -/
def bodyUnits (s : Bytes) : List Instr := bodyUnitsUpTo s.length s

/-- The word of an instruction as the opcode table numbers its bits: a two-byte unit has its first byte in bits 15:8
(R73), an event word is its 32 bits. -/
def Encoded.tableWord : Encoded → Nat
  | .wire b => b.toNat
  | .body s => s.foldl (fun n b => 256 * n + b.toNat) 0
  | .event w => w.toNat

/-! ## The opcode table's rows -/

/-- A row of spec/opcode_table.json: it matches a word `w` of its format when `w &&& mask = pattern`. -/
structure OpcodeRow where
  mnemonic : String
  format : Format
  pattern : Nat
  mask : Nat
deriving DecidableEq, Repr

/-- The row matches the word. -/
def OpcodeRow.hits (r : OpcodeRow) (w : Nat) : Bool := w &&& r.mask = r.pattern

/-- The rows of format E in the order in which they are tried (R90). -/
def eventRows : List OpcodeRow :=
  [ ⟨"RX", .event, 0x01000000, 0xFFFFFF00⟩,
    ⟨"START_MEAS", .event, 0x02000000, 0xFFFFFFFF⟩,
    ⟨"START_FW", .event, 0x02000001, 0xFFFFFFFF⟩,
    ⟨"START_SERIAL", .event, 0x02000002, 0xFFFFFFFF⟩,
    ⟨"TICK", .event, 0x03000000, 0xFF000000⟩,
    ⟨"IO_ERROR", .event, 0x04000000, 0xFFFFFFFF⟩,
    ⟨"RESET", .event, 0x05000000, 0xFFFFFFFF⟩,
    ⟨"RESERVED", .event, 0x00000000, 0x00000000⟩ ]

/-- The rows of formats W and B in the table's order (R90: the first that matches wins, ESC_TRAILING only at the last
index). -/
def byteRows : List OpcodeRow :=
  [ ⟨"FLAG", .wire, 0x7E, 0xFF⟩,
    ⟨"DATA", .wire, 0x00, 0x00⟩,
    ⟨"ESC_TRAILING", .body, 0x7D, 0xFF⟩,
    ⟨"ESC_7E", .body, 0x7D5E, 0xFFFF⟩,
    ⟨"ESC_7D", .body, 0x7D5D, 0xFFFF⟩,
    ⟨"ESC_11", .body, 0x7D31, 0xFFFF⟩,
    ⟨"ESC_13", .body, 0x7D33, 0xFFFF⟩,
    ⟨"ESC_INVALID", .body, 0x7D00, 0xFF00⟩,
    ⟨"LITERAL", .body, 0x00, 0x00⟩ ]

/-- All 17 rows in the table's order. -/
def opcodeTable : List OpcodeRow := byteRows ++ eventRows

/-! ## The host's word -/

/-- The encoding that a word of the opcode table stands for. DESIGN CHOICE (log entry 8): the table does not say which
format a bare 8-bit word belongs to; 0x7D is read as the body unit ESC_TRAILING and every other byte as a wire byte. The
two bytes of a 16-bit word are bits 15:8, then bits 7:0, as R73 and the table number them. -/
def tableEncoding (nbits w : Nat) : Option Encoded :=
  if w < 2 ^ nbits then
    match nbits with
    | 8 => if w = 0x7D then some (.body [BitVec.ofNat 8 w]) else some (.wire (BitVec.ofNat 8 w))
    | 16 => some (.body [BitVec.ofNat 8 (w / 256), BitVec.ofNat 8 w])
    | 32 => some (.event (BitVec.ofNat 32 w))
    | _ => none
  else none

/-- The instruction the decoder reads from a word of the opcode table. -/
def decodeTableWord (nbits w : Nat) : Option Instr :=
  match tableEncoding nbits w with
  | some e => (decode e).toOption
  | none => none

/-! ## The forward transform (test fixture, R114) -/

/-- What one byte is sent as: the inverse of the escape table (R73, R114). -/
def stuffByte (x : Byte) : Bytes :=
  if x = 0x7E then [escByte, 0x5E]
  else if x = 0x7D then [escByte, 0x5D]
  else if x = 0x11 then [escByte, 0x31]
  else if x = 0x13 then [escByte, 0x33]
  else [x]

/-- `stuff(x)`: each byte independently, in order (R114). -/
def stuff (x : Bytes) : Bytes := x.flatMap stuffByte

/-- The one command frame of the wire contract (R18): the block never sends it; a host or a fixture may reproduce it. -/
def measurementRequest : Bytes := [0x7E, 0x00, 0x03, 0x00, 0xFC, 0x7E]

/-- `7E ++ stuff(u) ++ 7E`, the wire frame of an unstuffed body (R71, R116). -/
def wireFrame (u : Bytes) : Bytes := flagByte :: (stuff u ++ [flagByte])

end Sys2Proof
end

