-- ==== Sys2Proof/Machine/State.lean ====
section
/-! DEFINITION. The state of the block (R20 to R42), its output items, the error codes, and the state after reset. -/

namespace Sys2Proof.Machine

/-- The decode mode of a read operation (R24, R84); the value 3 is never stored. -/
inductive Mode where
  | meas
  | fw
  | serial
deriving DecidableEq, Repr

/-- The Frame Assembler's state (R25). Complete lasts no time and is no state (R130). -/
inductive AsmState where
  | idle
  | collecting
deriving DecidableEq, Repr

/-- The malformed-frame causes (R270, class malformed). -/
inductive Malformed where
  /-- Body shorter than MIN_BODY (R161). -/
  | short
  /-- A 7D cut off by the closing flag (R107). -/
  | escTrailing
  /-- A 7D before a byte outside the escape table (R108). -/
  | escInvalid
  /-- More than MAX_COLLECT stuffed bytes (R134). -/
  | overflow
  /-- Declared length against payload length, under LEN_CHECK (R164). -/
  | length
  /-- Checksum, under CHK_VERIFY (R165). -/
  | checksum
deriving DecidableEq, Repr

/-- The completion codes a read operation ends with, and NONE (R30, R270). -/
inductive ReadResult where
  /-- No read has ended since START_READ or reset. -/
  | none
  | measOk
  | fwOk
  | serialOk
  /-- A measurement payload that is not 40 bytes (R184). -/
  | payloadLengthMismatch
  /-- A serial payload that is not ASCII (R190). -/
  | encodingError
  /-- A firmware payload that is not 7 bytes (R189). -/
  | fwLengthError
  /-- The source failed while a read was armed (R246). -/
  | ioError
deriving DecidableEq, Repr

/-- Every cause and completion code of the block (R270). -/
inductive Cause where
  | result (r : ReadResult)
  | malformed (m : Malformed)
deriving DecidableEq, Repr

/-- Ten values in the fixed field order of a DecodedRecord (R183): field 0 is `pm1`, field 9 is `typSize`. -/
structure Fields (α : Type) where
  pm1 : α
  pm2_5 : α
  pm4 : α
  pm10 : α
  ncBin0 : α
  ncBin1 : α
  ncBin2 : α
  ncBin3 : α
  ncBin4 : α
  typSize : α
deriving DecidableEq, Repr

/-- A DecodedRecord: ten binary32 patterns (R183, R191). -/
abbrev Record := Fields F32

/-- The ten lanes of the running average in the format of ACC_FORMAT (R28, R42). -/
inductive Lanes where
  | b32 (r : Fields F32)
  | b64 (r : Fields F64)
deriving DecidableEq, Repr

/-- The seven signed values of a firmware-version response (R77, R185). -/
structure FwVersion where
  v0 : Int
  v1 : Int
  v2 : Int
  v3 : Int
  v4 : Int
  v5 : Int
  v6 : Int
deriving DecidableEq, Repr

/-- An output item (R249). -/
inductive Item where
  /-- REC channel: a record as decoded, or the zero record (R218). -/
  | raw (r : Record)
  /-- REC channel: the flushed average of a burst (R212). -/
  | avg (a : Lanes)
  /-- RSP channel: a firmware version (R185). -/
  | fw (v : FwVersion)
  /-- RSP channel: the character codes of a serial number (R187, R188). -/
  | serial (chars : Bytes)
  /-- EVT channel: one cause code. -/
  | evt (c : Cause)
deriving DecidableEq, Repr

/-- `Err(code, i)` of the unstuffer: the code and the index of the 7D that failed (R100). -/
structure UnstuffError where
  code : Malformed
  index : Nat
deriving DecidableEq, Repr

/-- A call of the unstuffer in progress (R101): what is left of `s` from index `i` on, the index, the output so far, and
the error that ended the scan, if one did. -/
structure Scan where
  rest : Bytes
  index : Nat
  u : Bytes
  err : Option UnstuffError
deriving DecidableEq, Repr

/-- Everything the spec gives the block (R23 to R33), the source and the sink (R35), the configuration (R20), and the
model's own `inbox` and `scan`. -/
structure State where
  /-- The parameters the block was built with (R20); no step changes them (log entry 1). -/
  cfg : Config
  /-- 1 while a read operation is in progress (R23). -/
  armed : Bool
  /-- The decode mode (R24). -/
  mode : Mode
  /-- The synchronizer's state (R25). -/
  asm : AsmState
  /-- The stuffed bytes since the opening flag (R26). -/
  buf : Bytes
  /-- Ticks since START_READ, saturating (R27). -/
  elapsed : BitVec 32
  /-- Whether there is a running average (R28). -/
  avgValid : Bool
  /-- The running average's lanes (R28, R42). -/
  avg : Lanes
  /-- How the last read operation ended (R30). -/
  result : ReadResult
  /-- MalformedFrame events since reset, saturating (R31). -/
  mfCount : BitVec 32
  /-- The last MalformedFrame cause, none since reset when 0x00 (R32). -/
  mfLast : Option Malformed
  /-- Frames accepted since reset, saturating (R33). -/
  frameCount : BitVec 32
  /-- The last accepted frame's address (R33). -/
  lastAddr : Byte
  /-- The last accepted frame's command id (R33). -/
  lastCmd : Byte
  /-- The last accepted frame's state byte (R33). -/
  lastState : Byte
  /-- The last accepted frame's checksum byte (R33). -/
  lastChk : Byte
  /-- The last accepted frame's payload length (R33). -/
  lastPlen : BitVec 16
  /-- The byte source, head first (R35, R241). -/
  src : Bytes
  /-- The output list, oldest first (R35, R249). -/
  out : List Item
  /-- The MODEL's own: the event words not yet processed, next first (R243; log entry 2). -/
  inbox : List EventWord
  /-- The MODEL's own: a standalone call of the unstuffer, if one is in progress (R100; log entry 3). -/
  scan : Option Scan
deriving DecidableEq, Repr

/-- Nothing stops the block: "No error is fatal. No error stops the block" (R271). So there is no fault to raise. -/
inductive Fault where
deriving DecidableEq, Repr

/-- What the model declines. -/
inductive Refusal where
  /-- Raised only by an arm of exec whose instruction has no meaning yet; none is left. Safe. -/
  | notModelled (mnemonic : String)
deriving DecidableEq, Repr

/-- The same value in every field. -/
def Fields.const {α : Type} (a : α) : Fields α := ⟨a, a, a, a, a, a, a, a, a, a⟩

/-- Every lane +0 in the format given (R28, R36). -/
def Lanes.zero : AccFormat → Lanes
  | .binary32 => .b32 (Fields.const 0)
  | .binary64 => .b64 (Fields.const 0)

/-- The power-on state s0 of a block built with the parameters `c` (R36, R243, R300). -/
def State.powerOn (c : Config) : State where
  cfg := c
  armed := false
  mode := .meas
  asm := .idle
  buf := []
  elapsed := 0
  avgValid := false
  avg := Lanes.zero c.accFormat
  result := .none
  mfCount := 0
  mfLast := Option.none
  frameCount := 0
  lastAddr := 0
  lastCmd := 0
  lastState := 0
  lastChk := 0
  lastPlen := 0
  src := []
  out := []
  inbox := []
  scan := Option.none

/-- The machine right after reset, every parameter at its default (R36; log entries 1 and 2). -/
def State.reset : State := State.powerOn Config.default

end Sys2Proof.Machine
end

