-- ==== Sys2Proof/Machine/Operands.lean ====
section
/-! DEFINITION. How operands are formed (R13, R14, R15, R88): slices, big-endian reads, signed bytes, saturation. -/

namespace Sys2Proof.Machine

/-- `s[a..b]`, the bytes a to b inclusive, empty when b < a (R13). -/
def slice (s : Bytes) (a b : Nat) : Bytes := (s.drop a).take (b + 1 - a)

/-- `s[i]`. An index past the end is never formed (R50), so the default is never read. -/
def byteAt (s : Bytes) (i : Nat) : Byte := s.getD i 0

/-- A byte string read as one big-endian number: the lowest offset is the most significant (R53). -/
def bigEndian (s : Bytes) : Nat := s.foldl (fun n b => 256 * n + b.toNat) 0

/-- `MemRead(s, a, n)`: n bytes from offset a, big-endian, 8·n bits (R15, R53). -/
def memRead (s : Bytes) (a n : Nat) : BitVec (8 * n) := BitVec.ofNat (8 * n) (bigEndian ((s.drop a).take n))

/-- Measurement field i: `p[4i] ‖ p[4i+1] ‖ p[4i+2] ‖ p[4i+3]` (R88). -/
def measField (p : Bytes) (i : Nat) : F32 := memRead p (4 * i) 4

/-- `int8(b)`, the byte as a signed integer in −128..127 (R14). -/
def int8 (b : Byte) : Int := b.toInt

/-- `sat_N(v)` = min(v, 2^N − 1) (R14). -/
def sat (width v : Nat) : BitVec width := BitVec.ofNat width (min v (2 ^ width - 1))

/-- `zext_16` of a payload length (R14, R166); a length that does not fit 16 bits has no stated value (log entry 7). -/
def plen16 (n : Nat) : BitVec 16 := if n < 2 ^ 16 then BitVec.ofNat 16 n else Config.plenBeyond16 n

/-- The payload length `n_p = len(u) − 4` (R88). -/
def payloadLength (u : Bytes) : Nat := u.length - 4

/-- Valid ASCII: the bytes 0x00 to 0x7F (R78). -/
def isAscii (b : Byte) : Bool := b.toNat ≤ 0x7F

/-- The one's complement of the low byte of the sum of the bytes (R165). -/
def checksumOf (s : Bytes) : Byte := ~~~ BitVec.ofNat 8 ((s.map BitVec.toNat).sum)

/-- The same operation in each of the ten lanes (R42). -/
def Fields.map {α β : Type} (f : α → β) (r : Fields α) : Fields β :=
  ⟨f r.pm1, f r.pm2_5, f r.pm4, f r.pm10, f r.ncBin0, f r.ncBin1, f r.ncBin2, f r.ncBin3, f r.ncBin4, f r.typSize⟩

/-- The same two-operand operation in each of the ten lanes (R42, R213). -/
def Fields.zipWith {α β γ : Type} (f : α → β → γ) (r : Fields α) (q : Fields β) : Fields γ :=
  ⟨f r.pm1 q.pm1, f r.pm2_5 q.pm2_5, f r.pm4 q.pm4, f r.pm10 q.pm10, f r.ncBin0 q.ncBin0, f r.ncBin1 q.ncBin1,
   f r.ncBin2 q.ncBin2, f r.ncBin3 q.ncBin3, f r.ncBin4 q.ncBin4, f r.typSize q.typSize⟩

/-- Field i of R183 by its number. -/
def Fields.get {α : Type} (r : Fields α) : Fin 10 → α
  | 0 => r.pm1
  | 1 => r.pm2_5
  | 2 => r.pm4
  | 3 => r.pm10
  | 4 => r.ncBin0
  | 5 => r.ncBin1
  | 6 => r.ncBin2
  | 7 => r.ncBin3
  | 8 => r.ncBin4
  | 9 => r.typSize

/-- The ten fields made from their numbers (R183). -/
def Fields.ofFn {α : Type} (f : Nat → α) : Fields α := ⟨f 0, f 1, f 2, f 3, f 4, f 5, f 6, f 7, f 8, f 9⟩

/-- The ten values in the order of R183. -/
def Fields.toList {α : Type} (r : Fields α) : List α :=
  [r.pm1, r.pm2_5, r.pm4, r.pm10, r.ncBin0, r.ncBin1, r.ncBin2, r.ncBin3, r.ncBin4, r.typSize]

/-- `ZERO_REC`: ten binary32 +0 (R184). -/
def zeroRecord : Record := Fields.const 0

/-- `x` over bytes: the ten fields of a record as the 40 bytes of its payload, the inverse of the decode of R182. -/
def word32Bytes (w : F32) : Bytes :=
  [w.extractLsb' 24 8, w.extractLsb' 16 8, w.extractLsb' 8 8, w.extractLsb' 0 8]

/-- The measurement payload of a record: ten big-endian words in field order (R75). -/
def measPayload (r : Record) : Bytes := r.toList.flatMap word32Bytes

end Sys2Proof.Machine
end

