-- ==== Sys2Proof/Machine/Float.lean ====
section
/-! DEFINITION. The smoother's IEEE 754 arithmetic (R16, R76, R214 to R217). A finite datum is an exact multiple of its
format's smallest subnormal ("ulp" below), so a sum is exact before it is rounded. -/

namespace Sys2Proof.Machine

/-- Fraction bits (R16, R76). -/
def fracBits : AccFormat → Nat
  | .binary32 => 23
  | .binary64 => 52

/-- Exponent bits (R16, R76). -/
def expBits : AccFormat → Nat
  | .binary32 => 8
  | .binary64 => 11

/-- The smallest subnormal is 2^−minExp: 2^−149 and 2^−1074. -/
def minExp : AccFormat → Nat
  | .binary32 => 149
  | .binary64 => 1074

/-- The all-ones biased exponent, that of infinities and NaNs. -/
def expOnes (F : AccFormat) : Nat := 2 ^ expBits F - 1

/-- The largest finite magnitude, in ulps. -/
def maxMag (F : AccFormat) : Nat := (2 ^ (fracBits F + 1) - 1) * 2 ^ (expOnes F - 2)

/-- A datum of a format: the value of `fin neg mag` is ± mag · 2^−minExp, both zeros included. NaNs are one datum, since
every NaN that arithmetic produces is the canonical one (R216). -/
inductive Datum where
  | nan
  | inf (neg : Bool)
  | fin (neg : Bool) (mag : Nat)
deriving DecidableEq, Repr

/-- The datum of a pattern of the format F (R76): sign, biased exponent, fraction. -/
def unpack (F : AccFormat) (bits : Nat) : Datum :=
  let frac := bits % 2 ^ fracBits F
  let e := bits / 2 ^ fracBits F % 2 ^ expBits F
  let neg := bits.testBit (fracBits F + expBits F)
  if e = expOnes F then
    if frac = 0 then .inf neg else .nan
  else if e = 0 then .fin neg frac
  else .fin neg ((2 ^ fracBits F + frac) * 2 ^ (e - 1))

/-- The sign bit at its place. -/
def signBit (F : AccFormat) (neg : Bool) : Nat := if neg then 2 ^ (fracBits F + expBits F) else 0

/-- The exponent and fraction fields of a representable magnitude in ulps. -/
def packMag (F : AccFormat) (mag : Nat) : Nat :=
  if mag < 2 ^ fracBits F then mag
  else
    let e := Nat.log2 mag - fracBits F
    (e + 1) * 2 ^ fracBits F + (mag / 2 ^ e - 2 ^ fracBits F)

/-- The canonical quiet NaN: 0x7FC00000 and 0x7FF8000000000000 (R216). -/
def canonicalNaN (F : AccFormat) : Nat := expOnes F * 2 ^ fracBits F + 2 ^ (fracBits F - 1)

/-- The pattern of a datum. -/
def pack (F : AccFormat) : Datum → Nat
  | .nan => canonicalNaN F
  | .inf neg => signBit F neg + expOnes F * 2 ^ fracBits F
  | .fin neg mag => signBit F neg + packMag F mag

/-- n / 2^k rounded to an integer, to nearest with ties to even. -/
def roundHalfEven (n k : Nat) : Nat :=
  let d := 2 ^ k
  let q := n / d
  let r := n % d
  if 2 * r < d then q
  else if d < 2 * r then q + 1
  else if q % 2 = 0 then q
  else q + 1

/-- The number of bits of n. -/
def bitLength (n : Nat) : Nat := if n = 0 then 0 else Nat.log2 n + 1

/-- How many low bits of n / 2^k ulps the format's precision drops: none in the subnormal range. -/
def dropBits (F : AccFormat) (n k : Nat) : Nat := bitLength n - (k + fracBits F + 1)

/-- The magnitude n / 2^k ulps rounded to the precision of F, with no limit on the exponent. -/
def roundMag (F : AccFormat) (n k : Nat) : Nat := roundHalfEven n (dropBits F n k + k) * 2 ^ dropBits F n k

/-- `fl_F` of ± n / 2^k ulps: round to nearest, ties to even, ±∞ past the largest finite value (R16). -/
def fl (F : AccFormat) (neg : Bool) (n k : Nat) : Datum :=
  if maxMag F < roundMag F n k then .inf neg else .fin neg (roundMag F n k)

/-- IEEE 754 addition in F (R214): the exact sum, rounded. A zero sum is −0 only for (−0) + (−0). -/
def fadd (F : AccFormat) : Datum → Datum → Datum
  | .nan, _ => .nan
  | .inf _, .nan => .nan
  | .inf a, .inf b => if a = b then .inf a else .nan
  | .inf a, .fin _ _ => .inf a
  | .fin _ _, .nan => .nan
  | .fin _ _, .inf b => .inf b
  | .fin a m, .fin b n =>
    if a = b then fl F a (m + n) 0
    else if m = n then .fin false 0
    else if n < m then fl F a (m - n) 0
    else fl F b (n - m) 0

/-- IEEE 754 division by 2 in F (R214). -/
def fhalf (F : AccFormat) : Datum → Datum
  | .nan => .nan
  | .inf a => .inf a
  | .fin a m => fl F a m 1

/-- `avg2(a, b)`: the two rounded operations in the order of R214; a NaN anywhere gives the canonical NaN. -/
def avg2 (F : AccFormat) (a b : Datum) : Datum := fhalf F (fadd F a b)

/-- `avg2` on binary32 patterns. -/
def avg2Bits32 (a b : F32) : F32 :=
  BitVec.ofNat 32 (pack .binary32 (avg2 .binary32 (unpack .binary32 a.toNat) (unpack .binary32 b.toNat)))

/-- `avg2` on binary64 patterns. -/
def avg2Bits64 (a b : F64) : F64 :=
  BitVec.ofNat 64 (pack .binary64 (avg2 .binary64 (unpack .binary64 a.toNat) (unpack .binary64 b.toNat)))

/-- The binary64 datum of the same value as a binary32 datum (R215): exact, and one NaN (R216). -/
def widenDatum : Datum → Datum
  | .nan => .nan
  | .inf a => .inf a
  | .fin a m => .fin a (m * 2 ^ (minExp .binary64 - minExp .binary32))

/-- `widen(x)` to binary64 (R212, R215, R216). -/
def widen64 (x : F32) : F64 := BitVec.ofNat 64 (pack .binary64 (widenDatum (unpack .binary32 x.toNat)))

end Sys2Proof.Machine
end

