-- ==== Sys2Proof/Machine/Flags.lean ====
section
/-! DEFINITION. The conditions the block tests and the codes it reports. It has no condition codes and no arithmetic flags
(R40, R217): its one-bit status registers are `armed`, `avg_valid` and `asm`. -/

namespace Sys2Proof.Machine

/-- The four classes of response, and NONE (R270, R271). -/
inductive ResponseClass where
  | noResponse
  | completion
  | substituted
  | malformedFrame
  | propagated
deriving DecidableEq, Repr

/-- The 8-bit code of a malformed cause (R270). -/
def Malformed.code : Malformed → BitVec 8
  | .short => 0x20
  | .escTrailing => 0x21
  | .escInvalid => 0x22
  | .overflow => 0x23
  | .length => 0x24
  | .checksum => 0x25

/-- The 8-bit code of a completion result (R270). -/
def ReadResult.code : ReadResult → BitVec 8
  | .none => 0x00
  | .measOk => 0x01
  | .fwOk => 0x02
  | .serialOk => 0x03
  | .payloadLengthMismatch => 0x10
  | .encodingError => 0x30
  | .fwLengthError => 0x31
  | .ioError => 0x40

/-- The 8-bit code of any cause (R270). -/
def Cause.code : Cause → BitVec 8
  | .result r => r.code
  | .malformed m => m.code

/-- The class column of R270. -/
def Cause.responseClass : Cause → ResponseClass
  | .result .none => .noResponse
  | .result .measOk => .completion
  | .result .fwOk => .completion
  | .result .serialOk => .completion
  | .result .payloadLengthMismatch => .substituted
  | .result .encodingError => .propagated
  | .result .fwLengthError => .propagated
  | .result .ioError => .propagated
  | .malformed _ => .malformedFrame

/-- The register `mf_last` as the byte it reads as: 0x00 when there has been no event since reset (R32). -/
def mfLastByte : Option Malformed → BitVec 8
  | Option.none => 0x00
  | some m => m.code

/-- The code of `mode` (R24). -/
def Mode.code : Mode → BitVec 2
  | .meas => 0
  | .fw => 1
  | .serial => 2

/-- The code of `asm` (R25). -/
def AsmState.code : AsmState → BitVec 1
  | .idle => 0
  | .collecting => 1

/-- A core step is enabled exactly when `armed = 1` and `src` is not empty (R250). -/
def State.coreEnabled (s : State) : Bool := s.armed && !s.src.isEmpty

/-- The classification of R210, R211: the frame starts a new burst. -/
def State.startsNewBurst (s : State) : Bool := !s.avgValid || decide (s.cfg.thresholdTicks < s.elapsed.toNat)

/-- How a run has ended (R252). -/
inductive RunEnd where
  | waiting
  | idle
deriving DecidableEq, Repr

/-- A run that ends in this state is waiting if `armed = 1` and idle if `armed = 0` (R252). -/
def State.runEnd (s : State) : RunEnd := if s.armed then .waiting else .idle

end Sys2Proof.Machine
end

