-- ==== Sys2Proof/Machine/Ops.lean ====
section
/-! DEFINITION. The named operations over the registers, the collection buffer, the source and the sink, and the ONE
shared response to a malformed frame (R272). There is no return from it to write: "There is no return-from-trap
operation" (R282). -/

namespace Sys2Proof.Machine

/-- `Emit(x)`: append an item to `out` (R15, R249). -/
def State.emit (s : State) (x : Item) : State := { s with out := s.out ++ [x] }

/-- `MemWrite(buf, b)`: append a byte to the collection buffer (R15, R51, R133). -/
def State.memWrite (s : State) (b : Byte) : State := { s with buf := s.buf ++ [b] }

/-- RX's effect on the source: append at its tail (R241, R242). -/
def State.deliver (s : State) (b : Byte) : State := { s with src := s.src ++ [b] }

/-- `asm <- COLLECTING; buf <- []` (R131). -/
def State.openFrame (s : State) : State := { s with asm := .collecting, buf := [] }

/-- `buf <- []; asm <- IDLE` (R134, R135, R246). -/
def State.closeFrame (s : State) : State := { s with asm := .idle, buf := [] }

/-- `raise Malformed(code)` (R272): count, record the cause, emit Evt(code); everything else is unchanged and the read
goes on. The caller has already gone to IDLE. -/
def State.raiseMalformed (s : State) (code : Malformed) : State :=
  { s with
    mfCount := sat 32 (s.mfCount.toNat + 1)
    mfLast := some code
    out := s.out ++ [.evt (.malformed code)] }

/-- `armed <- 0; result <- code`, the end of a read operation (R135, R136). -/
def State.endRead (s : State) (code : ReadResult) : State := { s with armed := false, result := code }

/-- Every block register takes its reset value; `src` and `out` keep their contents (R247, R300). The configuration, and
the model's `inbox` and `scan`, are no block registers and are kept. -/
def State.resetRegisters (s : State) : State :=
  { s with
    armed := false
    mode := .meas
    asm := .idle
    buf := []
    elapsed := 0
    avgValid := false
    avg := Lanes.zero s.cfg.accFormat
    result := .none
    mfCount := 0
    mfLast := Option.none
    frameCount := 0
    lastAddr := 0
    lastCmd := 0
    lastState := 0
    lastChk := 0
    lastPlen := 0 }

/-- `start_read(m)` (R244): ignored while a read is in progress. -/
def State.startRead (s : State) (m : Mode) : State :=
  if s.armed then s else { s with armed := true, mode := m, elapsed := 0, result := .none }

/-- `tick(n)` (R245): counts only while armed, saturating. -/
def State.advance (s : State) (n : Nat) : State :=
  if s.armed then { s with elapsed := sat 32 (s.elapsed.toNat + n) } else s

/-- `io_error()` (R246): with a read in progress, discard the partial frame, end the read with 0x40 and report it. -/
def State.ioFailure (s : State) : State :=
  if s.armed then (s.closeFrame.endRead .ioError).emit (.evt (.result .ioError)) else s

end Sys2Proof.Machine
end

