-- ==== Sys2Proof/Machine/Smoother.lean ====
section
/-! DEFINITION. The Burst Smoother (44_burst_smoother.md): classification, seeding, averaging and the items it emits. -/

namespace Sys2Proof.Machine

/-- The lanes a record seeds the average with: `widen` of each field, the identity in binary32 (R212). -/
def seedLanes : AccFormat → Record → Lanes
  | .binary32, r => .b32 r
  | .binary64, r => .b64 (r.map widen64)

/-- Each lane averaged with the widened new value, in the lanes' format (R213). -/
def extendLanes : Lanes → Record → Lanes
  | .b32 a, r => .b32 (a.zipWith avg2Bits32 r)
  | .b64 a, r => .b64 (a.zipWith avg2Bits64 (r.map widen64))

/-- The flush of the prior burst's average, if there is one (R212). -/
def State.flushAvg (s : State) : State := if s.avgValid then s.emit (.avg s.avg) else s

/-- `avg[i] <- widen(rec[i]); avg_valid <- 1` (R212). -/
def State.seedAvg (s : State) (r : Record) : State :=
  { s with avgValid := true, avg := seedLanes s.cfg.accFormat r }

/-- NEW_BURST (R212). -/
def State.newBurst (s : State) (r : Record) : State := s.flushAvg.seedAvg r

/-- EXTEND (R213). -/
def State.extendBurst (s : State) (r : Record) : State := { s with avg := extendLanes s.avg r }

/-- `smooth(rec)` (R210): classify, update the average, then emit Raw (R218). -/
def State.smooth (s : State) (r : Record) : State :=
  (if s.startsNewBurst then s.newBurst r else s.extendBurst r).emit (.raw r)

end Sys2Proof.Machine
end

