-- ==== Sys2Proof/Machine/Codec.lean ====
section
/-! DEFINITION. The Payload Codec (43_payload_codec.md): the three decode modes and their failures. -/

namespace Sys2Proof.Machine

/-- `decode40(p)`: the ten fields, bits copied (R182). -/
def decode40 (p : Bytes) : Record := Fields.ofFn (measField p)

/-- MEAS (R181, R184): a payload that is not 40 bytes gives Evt(0x10) and the zero record. -/
def decodeMeas (s : State) (p : Bytes) : State × ReadResult :=
  if p.length = measPayloadLen then (s.smooth (decode40 p), .measOk)
  else ((s.emit (.evt (.result .payloadLengthMismatch))).smooth zeroRecord, .payloadLengthMismatch)

/-- The seven signed values of a firmware payload (R185). -/
def fwValues (p : Bytes) : FwVersion :=
  ⟨int8 (byteAt p 0), int8 (byteAt p 1), int8 (byteAt p 2), int8 (byteAt p 3), int8 (byteAt p 4), int8 (byteAt p 5),
   int8 (byteAt p 6)⟩

/-- FW (R185, R189). -/
def decodeFw (s : State) (p : Bytes) : State × ReadResult :=
  if p.length = fwPayloadLen then (s.emit (.fw (fwValues p)), .fwOk)
  else (s.emit (.evt (.result .fwLengthError)), .fwLengthError)

/-- SERIAL (R187, R188, R190): every byte is kept, or the whole payload fails. -/
def decodeSerial (s : State) (p : Bytes) : State × ReadResult :=
  if p.all isAscii then (s.emit (.serial p), .serialOk)
  else (s.emit (.evt (.result .encodingError)), .encodingError)

/-- `decode_and_emit(mode, p)` (R180). -/
def decodeAndEmit (s : State) (p : Bytes) : State × ReadResult :=
  match s.mode with
  | .meas => decodeMeas s p
  | .fw => decodeFw s p
  | .serial => decodeSerial s p

end Sys2Proof.Machine
end

