-- ==== Sys2Proof/Machine/Unstuffer.lean ====
section
/-! DEFINITION. The Byte Unstuffer (40_unstuffer.md): one operation per unit, the scan of R101, and the meanings of the
seven body units as instructions. -/

namespace Sys2Proof.Machine

/-- A call of `unstuff(s)` before its first unit: `u <- []; i <- 0` (R101). -/
def Scan.start (s : Bytes) : Scan := ⟨s, 0, [], Option.none⟩

/-- A unit of `n` bytes that stands for `y`: `u <- u ++ [y]; i <- i + n`. -/
def Scan.produce (sc : Scan) (y : Byte) (n : Nat) : Scan :=
  { sc with rest := sc.rest.drop n, index := sc.index + n, u := sc.u ++ [y] }

/-- `return Err(code, i)`: the scan ends, with the index of the 7D that failed (R100, R109). -/
def Scan.fail (sc : Scan) (code : Malformed) : Scan := { sc with err := some ⟨code, sc.index⟩ }

/-- The call has returned: the scan failed or has no byte left (R101). -/
def Scan.done (sc : Scan) : Bool := sc.err.isSome || sc.rest.isEmpty

/-! ## The units (R102 to R108) -/

/-- LITERAL (R102). -/
def Scan.literal (b : Byte) (sc : Scan) : Scan := sc.produce b 1

/-- ESC_7E (R103). -/
def Scan.esc7E (sc : Scan) : Scan := sc.produce 0x7E 2

/-- ESC_7D (R104): the 7D it produces starts no escape. -/
def Scan.esc7D (sc : Scan) : Scan := sc.produce 0x7D 2

/-- ESC_11 (R105). -/
def Scan.esc11 (sc : Scan) : Scan := sc.produce 0x11 2

/-- ESC_13 (R106). -/
def Scan.esc13 (sc : Scan) : Scan := sc.produce 0x13 2

/-- ESC_TRAILING (R107). -/
def Scan.escTrailing (sc : Scan) : Scan := sc.fail .escTrailing

/-- ESC_INVALID (R108). -/
def Scan.escInvalid (_c : Byte) (sc : Scan) : Scan := sc.fail .escInvalid

/-- What one unit does to the scan. The rows of formats W and E are no body units. -/
def Scan.unit (sc : Scan) : Instr → Scan
  | .escTrailing => sc.escTrailing
  | .esc7E => sc.esc7E
  | .esc7D => sc.esc7D
  | .esc11 => sc.esc11
  | .esc13 => sc.esc13
  | .escInvalid c => sc.escInvalid c
  | .literal b => sc.literal b
  | .flag => sc
  | .data _ => sc
  | .rx _ => sc
  | .startMeas => sc
  | .startFw => sc
  | .startSerial => sc
  | .tick _ => sc
  | .ioError => sc
  | .reset => sc
  | .reserved _ _ => sc

/-- One pass of the loop of R101: decode the unit at `i` and do it; nothing once the call has returned. -/
def Scan.step (sc : Scan) : Scan :=
  if sc.done then sc
  else
    match decodeUnit sc.rest with
    | .ok (i, _) => sc.unit i
    | .error _ => sc

/-- `n` passes of the loop. -/
def Scan.run : Nat → Scan → Scan
  | 0, sc => sc
  | n + 1, sc => Scan.run n sc.step

/-- What a call that has returned answers (R100). -/
def Scan.answer (sc : Scan) : Except UnstuffError Bytes :=
  match sc.err with
  | some e => .error e
  | Option.none => .ok sc.u

/-- `unstuff(s)` (R100, R101). Each pass takes at least one byte, so `len(s)` passes are enough. -/
def unstuff (s : Bytes) : Except UnstuffError Bytes := ((Scan.start s).run s.length).answer

/-! ## The body units as instructions -/

/-- Do a unit in the standalone call that is in progress; with no call in progress, or one that has returned (Ok at the end
of its string, or with an error), there is no index of a string left to scan and nothing happens: R101 gives a unit no
meaning there (DESIGN CHOICE, log entry 6). Inside a frame's completion the same unit operations run
in `unstuff`. -/
def State.onScan (s : State) (f : Scan → Scan) : State :=
  match s.scan with
  | some sc => if sc.done then s else { s with scan := some (f sc) }
  | Option.none => s

/-- ESC_TRAILING (R107). -/
def execEscTrailing (s : State) : Host.Outcome State Fault Refusal := .next (s.onScan Scan.escTrailing)

/-- ESC_7E (R103). -/
def execEsc7E (s : State) : Host.Outcome State Fault Refusal := .next (s.onScan Scan.esc7E)

/-- ESC_7D (R104). -/
def execEsc7D (s : State) : Host.Outcome State Fault Refusal := .next (s.onScan Scan.esc7D)

/-- ESC_11 (R105). -/
def execEsc11 (s : State) : Host.Outcome State Fault Refusal := .next (s.onScan Scan.esc11)

/-- ESC_13 (R106). -/
def execEsc13 (s : State) : Host.Outcome State Fault Refusal := .next (s.onScan Scan.esc13)

/-- ESC_INVALID (R108). -/
def execEscInvalid (c : Byte) (s : State) : Host.Outcome State Fault Refusal := .next (s.onScan (Scan.escInvalid c))

/-- LITERAL (R102). -/
def execLiteral (b : Byte) (s : State) : Host.Outcome State Fault Refusal := .next (s.onScan (Scan.literal b))

end Sys2Proof.Machine
end

