-- ==== Sys2Proof/Machine/Interpreter.lean ====
section
/-! DEFINITION. The Frame Interpreter (42_interpreter.md): a body's fields, the checks on them, and acceptance. -/

namespace Sys2Proof.Machine

/-- `Frame(addr, cmd, st, p, chk)` (R160). -/
structure Frame where
  addr : Byte
  cmd : Byte
  st : Byte
  payload : Bytes
  chk : Byte
deriving DecidableEq, Repr

/-- The fields of a body of at least 5 bytes (R74, R162, R163). -/
def bodyFields (u : Bytes) : Frame where
  addr := byteAt u 0
  cmd := byteAt u 1
  st := byteAt u 2
  payload := slice u 3 (u.length - 2)
  chk := byteAt u (u.length - 1)

/-- LENGTH fails: LEN_CHECK is set and the declared length is not that of the payload (R164). -/
def lengthFails (c : Config) (u : Bytes) : Bool := c.lenCheck && (bodyFields u).st.toNat ≠ payloadLength u

/-- CHECKSUM fails: CHK_VERIFY is set and the last byte is not the checksum of those before it (R165). -/
def checksumFails (c : Config) (u : Bytes) : Bool :=
  c.chkVerify && (bodyFields u).chk ≠ checksumOf (slice u 0 (u.length - 2))

/-- `interpret(u)`, the checks in the order of R160 and R168. No value of the address, the command id or the state byte
is rejected otherwise (R167). -/
def interpret (c : Config) (u : Bytes) : Except Malformed Frame :=
  if u.length < minBody then .error .short
  else if lengthFails c u then .error .length
  else if checksumFails c u then .error .checksum
  else .ok (bodyFields u)

/-- Acceptance: the frame registers (R166). -/
def State.accept (s : State) (f : Frame) : State :=
  { s with
    frameCount := sat 32 (s.frameCount.toNat + 1)
    lastAddr := f.addr
    lastCmd := f.cmd
    lastState := f.st
    lastChk := f.chk
    lastPlen := plen16 f.payload.length }

end Sys2Proof.Machine
end

