-- ==== Sys2Proof/Machine/FrameSync.lean ====
section
/-! DEFINITION. The frame synchronizer (41_frame_sync.md): FLAG and DATA in each state, completion, the core step and the
drain (R250). -/

namespace Sys2Proof.Machine

/-- An accepted frame: the frame registers, the decode in the armed mode, and the end of the read (R135, R136, R166). -/
def State.finishFrame (s : State) (f : Frame) : State :=
  let d := decodeAndEmit (s.accept f) f.payload
  d.1.endRead d.2

/-- The outcome of a completed body: malformed, and the read goes on, or a frame that ends it (R135, R138). -/
def State.completeBody (s : State) (stuffed : Bytes) : State :=
  match unstuff stuffed with
  | .error e => s.raiseMalformed e.code
  | .ok u =>
    match interpret s.cfg u with
    | .error code => s.raiseMalformed code
    | .ok f => s.finishFrame f

/-- `complete()` (R135): the buffer is taken and the state is IDLE before any outcome is reported. -/
def State.complete (s : State) : State := s.closeFrame.completeBody s.buf

/-- FLAG: opens a frame in IDLE (R131), closes one in COLLECTING (R132). -/
def State.takeFlag (s : State) : State :=
  match s.asm with
  | .idle => s.openFrame
  | .collecting => s.complete

/-- DATA: discarded in IDLE (R137), appended in COLLECTING (R133), overflow when the buffer is full (R134). -/
def State.takeData (s : State) (b : Byte) : State :=
  match s.asm with
  | .idle => s
  | .collecting =>
    if s.buf.length < s.cfg.maxCollect then s.memWrite b else s.closeFrame.raiseMalformed .overflow

/-- A wire byte has an effect only in a core step, and a core step happens only while armed (R130, R23; DEDUCED, log
entry 5). -/
def State.inRead (s : State) (t : State) : State := if s.armed then t else s

/-- FLAG (R131, R132). The byte has been taken from the source by the step that runs it. -/
def execFlag (s : State) : Host.Outcome State Fault Refusal := .next (s.inRead s.takeFlag)

/-- DATA (R133, R134, R137). -/
def execData (b : Byte) (s : State) : Host.Outcome State Fault Refusal := .next (s.inRead (s.takeData b))

/-- What a decoded wire byte does in a core step. The rows of formats B and E are no wire bytes. -/
def State.takeWire (s : State) : Instr → State
  | .flag => s.takeFlag
  | .data b => s.takeData b
  | .escTrailing => s
  | .esc7E => s
  | .esc7D => s
  | .esc11 => s
  | .esc13 => s
  | .escInvalid _ => s
  | .literal _ => s
  | .rx _ => s
  | .startMeas => s
  | .startFw => s
  | .startSerial => s
  | .tick _ => s
  | .ioError => s
  | .reset => s
  | .reserved _ _ => s

/-- `core_step(b)` (R130), on a byte taken by Pop(). -/
def State.coreStep (s : State) (b : Byte) : State := s.takeWire (decodeWire b)

/-- The drain of R250 over the bytes of the source. -/
def drainBytes : Bytes → State → State
  | [], s => s
  | b :: bs, s => if s.armed then drainBytes bs ({ s with src := bs }.coreStep b) else s

/-- `drain()` (R250): core steps while armed and the source is not empty. -/
def State.drain (s : State) : State := drainBytes s.src s

end Sys2Proof.Machine
end

