-- ==== Sys2Proof/Machine/Events.lean ====
section
/-! DEFINITION. The events (45_host_interface.md): each one's own action, as the case of `apply` in R243 gives it. The
drain that follows every action is the step's (R243, R250). -/

namespace Sys2Proof.Machine

/-- RX b (R242): the byte joins the tail of the source. -/
def execRx (b : Byte) (s : State) : Host.Outcome State Fault Refusal := .next (s.deliver b)

/-- START_READ in mode MEAS (R244). -/
def execStartMeas (s : State) : Host.Outcome State Fault Refusal := .next (s.startRead .meas)

/-- START_READ in mode FW (R244). -/
def execStartFw (s : State) : Host.Outcome State Fault Refusal := .next (s.startRead .fw)

/-- START_READ in mode SERIAL (R244). -/
def execStartSerial (s : State) : Host.Outcome State Fault Refusal := .next (s.startRead .serial)

/-- TICK n, n zero-extended (R88, R245). -/
def execTick (n : BitVec 24) (s : State) : Host.Outcome State Fault Refusal := .next (s.advance n.toNat)

/-- IO_ERROR (R246, R278). -/
def execIoError (s : State) : Host.Outcome State Fault Refusal := .next s.ioFailure

/-- RESET (R247, R300, R301). -/
def execReset (s : State) : Host.Outcome State Fault Refusal := .next s.resetRegisters

/-- RESERVED (R248): nothing. -/
def execReserved (_op : BitVec 8) (_operand : BitVec 24) (s : State) : Host.Outcome State Fault Refusal := .next s

end Sys2Proof.Machine
end

