-- ==== Sys2Proof/Machine/Dispatch.lean ====
section
/-! DEFINITION. exec: one arm per row of the opcode table. -/

namespace Sys2Proof.Machine

/-- The meaning of an instruction: of an event word its own action (R243), of a wire byte its part in a core step (R130),
of a body unit its part in the unstuffer's scan (R101). -/
def exec (i : Instr) (s : State) : Host.Outcome State Fault Refusal :=
  match i with
  | .flag => Sys2Proof.Machine.execFlag s
  | .data b => Sys2Proof.Machine.execData b s
  | .escTrailing => Sys2Proof.Machine.execEscTrailing s
  | .esc7E => Sys2Proof.Machine.execEsc7E s
  | .esc7D => Sys2Proof.Machine.execEsc7D s
  | .esc11 => Sys2Proof.Machine.execEsc11 s
  | .esc13 => Sys2Proof.Machine.execEsc13 s
  | .escInvalid c => Sys2Proof.Machine.execEscInvalid c s
  | .literal b => Sys2Proof.Machine.execLiteral b s
  | .rx b => Sys2Proof.Machine.execRx b s
  | .startMeas => Sys2Proof.Machine.execStartMeas s
  | .startFw => Sys2Proof.Machine.execStartFw s
  | .startSerial => Sys2Proof.Machine.execStartSerial s
  | .tick n => Sys2Proof.Machine.execTick n s
  | .ioError => Sys2Proof.Machine.execIoError s
  | .reset => Sys2Proof.Machine.execReset s
  | .reserved op operand => Sys2Proof.Machine.execReserved op operand s

end Sys2Proof.Machine
end

