-- ==== Sys2Proof/Machine/Apply.lean ====
section
/-! DEFINITION. Where the next instruction comes from, and `apply`, the step function of R243. -/

namespace Sys2Proof.Machine

/-- The drain after an event's own action (R243, R250). -/
def drainAfter : Host.Outcome State Fault Refusal → Host.Outcome State Fault Refusal
  | .next s => .next s.drain
  | .fault r => .fault r
  | .refused r => .refused r

/-- `apply(state, w)` (R243): decode the event word, do its action, drain. -/
def apply (s : State) (w : EventWord) : Host.Outcome State Fault Refusal := drainAfter (exec (decodeEvent w) s)

/-- `fold apply s events` (R243). -/
def runEvents : State → List EventWord → Host.Outcome State Fault Refusal
  | s, [] => .next s
  | s, w :: ws =>
    match apply s w with
    | .next t => runEvents t ws
    | .fault r => .fault r
    | .refused r => .refused r

/-- What the next step runs: an instruction, and the state with that instruction taken from where it stood. -/
inductive Fetched where
  /-- An event word from the inbox (R243). -/
  | event (i : Instr) (s : State)
  /-- A byte popped from the source (R250). -/
  | wire (i : Instr) (s : State)
  /-- The next unit of a standalone call of the unstuffer (R101). -/
  | unit (i : Instr) (s : State)
  /-- Nothing is enabled: the block waits (R241, R302). -/
  | waiting
deriving DecidableEq, Repr

/-- The unit at which the standalone call of the unstuffer stands, if there is one left. -/
def State.nextUnit (s : State) : Option Instr :=
  match s.scan with
  | some sc => if sc.done then Option.none else ((decodeUnit sc.rest).toOption).map Prod.fst
  | Option.none => Option.none

/-- The next instruction (log entry 4): the event at the head of the inbox; with no event left, a core step where one is
enabled (no run from reset leaves one enabled after its drain, R250); else a standalone call's next unit. -/
def fetch (s : State) : Fetched :=
  match s.inbox with
  | w :: ws => .event (decodeEvent w) { s with inbox := ws }
  | [] =>
    match s.src with
    | b :: bs =>
      if s.armed then .wire (decodeWire b) { s with src := bs }
      else
        match s.nextUnit with
        | some i => .unit i s
        | Option.none => .waiting
    | [] =>
      match s.nextUnit with
      | some i => .unit i s
      | Option.none => .waiting

/-- An encoding put where the next step fetches its instruction (log entries 2 and 8): an event word at the head of the
inbox; a wire byte at the head of the source with a read armed; a body unit as a standalone call of the unstuffer. -/
def State.place (s : State) : Encoded → State
  | .event w => { s with inbox := w :: s.inbox }
  | .wire b => { s with inbox := [], armed := true, src := b :: s.src }
  | .body u => { s with inbox := [], src := [], scan := some (Scan.start u) }

end Sys2Proof.Machine
end

