-- ==== Sys2Proof/Machine/Step.lean ====
section
/-! DEFINITION. The step: one event with its drain (R243). -/

namespace Sys2Proof.Machine

/-- One step (R19, R56): fetch the next instruction and run it; after an event's own action the source is drained (R243).
With nothing enabled the block waits and the state is unchanged (R241, R288; log entry 4). -/
def step (s : State) : Host.Outcome State Fault Refusal :=
  match fetch s with
  | .event i t => drainAfter (exec i t)
  | .wire i t => exec i t
  | .unit i t => exec i t
  | .waiting => .next s

/-- The state whose very next step runs the opcode table's word `w` of `nbits` bits. -/
def State.withFetchWord (s : State) (nbits w : Nat) : State :=
  match tableEncoding nbits w with
  | some e => s.place e
  | Option.none => s

end Sys2Proof.Machine
end

