-- ==== Sys2Proof/Machine/Assembler.lean ====
section
/-! DEFINITION. The event assembly syntax and its pseudo-instructions (R91, R92): a tool outside the block. -/

namespace Sys2Proof.Machine

/-- A line of assembly (R91) or a pseudo-instruction (R92). -/
inductive AsmLine where
  | rx (b : Byte)
  | start (m : Mode)
  | tick (n : Nat)
  | ioerr
  | reset
  | rxs (bs : Bytes)
  | frame (body : Bytes)
  | framec (a c s : Byte) (q : Bytes)
  | tickms (t : Nat)
deriving DecidableEq, Repr

/-- The event word of an instruction of format E. -/
def wordOf (i : Instr) : List EventWord :=
  match encode i with
  | .event w => [w]
  | .wire _ => []
  | .body _ => []

/-- `rx` of each byte (R92). -/
def rxWords (bs : Bytes) : List EventWord := bs.flatMap (fun b => wordOf (.rx b))

/-- `tick n`, refused at 2^24 and above (R91). -/
def tickWords (n : Nat) : Option (List EventWord) :=
  if n < 2 ^ 24 then some (wordOf (.tick (BitVec.ofNat 24 n))) else none

/-- The SHDLC body of `framec`: the bytes and their checksum (R92, R165). -/
def framecBody (a c s : Byte) (q : Bytes) : Bytes :=
  let head := a :: c :: s :: q
  head ++ [checksumOf head]

/-- The event words of a line (R91, R92); none where the assembler refuses it. -/
def assembleLine : AsmLine → Option (List EventWord)
  | .rx b => some (wordOf (.rx b))
  | .start .meas => some (wordOf .startMeas)
  | .start .fw => some (wordOf .startFw)
  | .start .serial => some (wordOf .startSerial)
  | .tick n => tickWords n
  | .ioerr => some (wordOf .ioError)
  | .reset => some (wordOf .reset)
  | .rxs bs => some (rxWords bs)
  | .frame body => some (rxWords (wireFrame body))
  | .framec a c s q => some (rxWords (wireFrame (framecBody a c s q)))
  | .tickms t => tickWords (t * 1000)

/-- The event words of a program, its lines in order. -/
def assemble : List AsmLine → Option (List EventWord)
  | [] => some []
  | l :: ls =>
    match assembleLine l, assemble ls with
    | some ws, some rest => some (ws ++ rest)
    | _, _ => none

/-! ## Reading a line of text -/

/-- The value of a hexadecimal digit. -/
def hexDigit (c : Char) : Option Nat :=
  if '0' ≤ c ∧ c ≤ '9' then some (c.toNat - 48)
  else if 'A' ≤ c ∧ c ≤ 'F' then some (c.toNat - 55)
  else if 'a' ≤ c ∧ c ≤ 'f' then some (c.toNat - 87)
  else none

/-- A byte: two hexadecimal digits without a prefix (R91). -/
def hexByte : List Char → Option Byte
  | [a, b] =>
    match hexDigit a, hexDigit b with
    | some x, some y => some (BitVec.ofNat 8 (16 * x + y))
    | _, _ => none
  | _ => none

/-- Several bytes. -/
def hexBytes : List (List Char) → Option Bytes
  | [] => some []
  | t :: ts =>
    match hexByte t, hexBytes ts with
    | some b, some bs => some (b :: bs)
    | _, _ => none

/-- A decimal count, its digits from the most significant (R91). -/
def decimalFrom : Nat → List Char → Option Nat
  | n, [] => some n
  | n, c :: cs => if '0' ≤ c ∧ c ≤ '9' then decimalFrom (10 * n + (c.toNat - 48)) cs else none

/-- A decimal count of at least one digit. -/
def decimal : List Char → Option Nat
  | [] => none
  | c :: cs => decimalFrom 0 (c :: cs)

/-- The words of a line up to a `;`, split at spaces: `cur` is the word being read. -/
def tokensFrom (cur : List Char) : List Char → List (List Char)
  | [] => if cur.isEmpty then [] else [cur]
  | c :: cs =>
    if c = ';' then (if cur.isEmpty then [] else [cur])
    else if c = ' ' then (if cur.isEmpty then tokensFrom [] cs else cur :: tokensFrom [] cs)
    else tokensFrom (cur ++ [c]) cs

/-- A line of text: no instruction (blank, or only a comment), or one; none where the line is not in the syntax of R91
and R92. -/
def parseLine (line : List Char) : Option (List AsmLine) :=
  match tokensFrom [] line with
  | [] => some []
  | ['r', 'x'] :: [t] => (hexByte t).map (fun b => [.rx b])
  | [['s', 't', 'a', 'r', 't'], ['m', 'e', 'a', 's']] => some [.start .meas]
  | [['s', 't', 'a', 'r', 't'], ['f', 'w']] => some [.start .fw]
  | [['s', 't', 'a', 'r', 't'], ['s', 'e', 'r', 'i', 'a', 'l']] => some [.start .serial]
  | [['t', 'i', 'c', 'k'], t] => (decimal t).map (fun n => [.tick n])
  | [['t', 'i', 'c', 'k', 'm', 's'], t] => (decimal t).map (fun n => [.tickms n])
  | [['i', 'o', 'e', 'r', 'r']] => some [.ioerr]
  | [['r', 'e', 's', 'e', 't']] => some [.reset]
  | ['r', 'x', 's'] :: ts => (hexBytes ts).map (fun bs => [.rxs bs])
  | ['f', 'r', 'a', 'm', 'e'] :: ts => (hexBytes ts).map (fun bs => [.frame bs])
  | ['f', 'r', 'a', 'm', 'e', 'c'] :: ts =>
    match hexBytes ts with
    | some (a :: c :: s :: q) => some [.framec a c s q]
    | _ => none
  | _ => none

/-- A program's text, a line at a time, as event words. -/
def assembleText (lines : List String) : Option (List EventWord) :=
  match lines.mapM (fun l => parseLine l.toList) with
  | some ls => assemble ls.flatten
  | none => none

end Sys2Proof.Machine
end

