-- ==== Sys2Proof/Machine/HostRead.lean ====
section
/-! DEFINITION. The host's register reads (R34) and a bus wrapper's map over them (R59). A read is a function of the state:
it has no side effect (R57). -/

namespace Sys2Proof.Machine

/-- The registers the host may read between steps (R34). The bytes of `buf` are not among them (R41). -/
inductive HostReg where
  | armed
  | mode
  | asm
  | bufLen
  | elapsed
  | avgValid
  | avg (i : Fin 10)
  | result
  | mfCount
  | mfLast
  | frameCount
  | lastAddr
  | lastCmd
  | lastState
  | lastChk
  | lastPlen
deriving DecidableEq, Repr

/-- A whole register as read (R58): its width in bits and its value. -/
structure RegValue where
  width : Nat
  value : Nat
deriving DecidableEq, Repr

/-- A bit vector as read. -/
def RegValue.ofBits {w : Nat} (v : BitVec w) : RegValue := ⟨w, v.toNat⟩

/-- ⌈log2(MAX_COLLECT + 1)⌉, the width of `buf_len` (R26). -/
def bufLenWidth (c : Config) : Nat := bitLength c.maxCollect

/-- Lane i of the running average as read. -/
def Lanes.read (a : Lanes) (i : Fin 10) : RegValue :=
  match a with
  | .b32 r => RegValue.ofBits (r.get i)
  | .b64 r => RegValue.ofBits (r.get i)

/-- What the host reads (R34). -/
def hostRead (s : State) : HostReg → RegValue
  | .armed => RegValue.ofBits (BitVec.ofBool s.armed)
  | .mode => RegValue.ofBits s.mode.code
  | .asm => RegValue.ofBits s.asm.code
  | .bufLen => ⟨bufLenWidth s.cfg, s.buf.length⟩
  | .elapsed => RegValue.ofBits s.elapsed
  | .avgValid => RegValue.ofBits (BitVec.ofBool s.avgValid)
  | .avg i => s.avg.read i
  | .result => RegValue.ofBits s.result.code
  | .mfCount => RegValue.ofBits s.mfCount
  | .mfLast => RegValue.ofBits (mfLastByte s.mfLast)
  | .frameCount => RegValue.ofBits s.frameCount
  | .lastAddr => RegValue.ofBits s.lastAddr
  | .lastCmd => RegValue.ofBits s.lastCmd
  | .lastState => RegValue.ofBits s.lastState
  | .lastChk => RegValue.ofBits s.lastChk
  | .lastPlen => RegValue.ofBits s.lastPlen

/-- A bus wrapper's register map: the parameter REG_MAP, open and without a default (R59; log entry 15). -/
abbrev RegMap := List (Nat × HostReg)

/-- A bus read of an address through a map: no value where the map names no register. -/
def busRead (m : RegMap) (addr : Nat) (s : State) : Option RegValue :=
  (m.find? (fun e => e.1 = addr)).map (fun e => hostRead s e.2)

end Sys2Proof.Machine
end

