-- ==== Sys2Proof/Machine/Sink.lean ====
section
/-! DEFINITION. What a sink does with the items of `out` (R186, R219, R249): functions outside the block's state. -/

namespace Sys2Proof.Machine

/-- The channels of R249. -/
inductive Channel where
  | record
  | response
  | event
deriving DecidableEq, Repr

/-- The channel an item belongs to (R249). -/
def Item.channel : Item → Channel
  | .raw _ => .record
  | .avg _ => .record
  | .fw _ => .response
  | .serial _ => .response
  | .evt _ => .event

/-- "A sink that wants only the document's record stream keeps the REC items, in order" (R249). -/
def recordStream (out : List Item) : List Item := out.filter (fun x => x.channel = .record)

/-- `version(v)`: "major.minor" of the first two values, a negative one with a leading minus (R186). -/
def versionText (v : FwVersion) : String := toString v.v0 ++ "." ++ toString v.v1

/-- The characters of a serial number: every byte, in order, as the character with that code (R88, R188). -/
def serialText (chars : Bytes) : List Char := chars.map (fun b => Char.ofNat b.toNat)

/-- `round_half_even(val(x), d)` as an integer number of units of 10^−d; a non-finite lane has no rendering (R219). -/
def renderLane (F : AccFormat) (bits d : Nat) : Option Int :=
  match unpack F bits with
  | .fin neg m =>
    let n : Int := (roundHalfEven (m * 10 ^ d) (minExp F) : Nat)
    some (if neg then -n else n)
  | .inf _ => none
  | .nan => none

/-- How many decimals field i is rendered with: mass fields 0, count fields 2 (R183, R219). -/
def renderDecimals : Fields Nat := ⟨0, 0, 0, 0, 2, 2, 2, 2, 2, 2⟩

/-- `render_avg` (R219): field i in units of 10^−(its decimals). -/
def renderAvg : Lanes → Fields (Option Int)
  | .b32 r => r.zipWith (fun x d => renderLane .binary32 x.toNat d) renderDecimals
  | .b64 r => r.zipWith (fun x d => renderLane .binary64 x.toNat d) renderDecimals

end Sys2Proof.Machine
end

