-- ==== Sys2Proof/Safety.lean ====
section
/-! DEFINITION. What claims about the block are stated in: its invariants (R37 to R39 and what follows from the rules
beside them), the state between steps, and the parts of the state that a frame or an event leaves alone. -/

namespace Sys2Proof.Machine

/-- The format of the lanes. -/
def Lanes.format : Lanes → AccFormat
  | .b32 _ => .binary32
  | .b64 _ => .binary64

/-- A signed 8-bit value (R88). -/
abbrev inInt8 (v : Int) : Prop := -128 ≤ v ∧ v ≤ 127

/-- What every item of the output list is like (R185, R188, R212, R249, R270). -/
def Item.Ok (c : Config) : Item → Prop
  | .raw _ => True
  | .avg a => a.format = c.accFormat
  | .fw v => inInt8 v.v0 ∧ inInt8 v.v1 ∧ inInt8 v.v2 ∧ inInt8 v.v3 ∧ inInt8 v.v4 ∧ inInt8 v.v5 ∧ inInt8 v.v6
  | .serial cs => 1 ≤ cs.length ∧ cs.length + 4 ≤ c.maxCollect ∧ cs.all isAscii = true
  | .evt x => x.responseClass ≠ .noResponse ∧ x.responseClass ≠ .completion

/-- The invariant of the block's state. -/
structure State.Inv (s : State) : Prop where
  /-- The parameters are legal (R7, R8). -/
  legal : s.cfg.Legal
  /-- R37. -/
  collecting_armed : s.asm = .collecting → s.armed = true
  /-- R38. -/
  buf_no_flag : flagByte ∉ s.buf
  /-- R38. -/
  buf_bound : s.buf.length ≤ s.cfg.maxCollect
  /-- R39. -/
  idle_empty : s.asm = .idle → s.buf = []
  /-- Ten lanes of ACC_FORMAT (R28). -/
  lanes_format : s.avg.format = s.cfg.accFormat
  /-- Without a running average the lanes hold their reset value (R28, R36). -/
  no_avg_zero : s.avgValid = false → s.avg = Lanes.zero s.cfg.accFormat
  /-- While a read is in progress no read has ended since its START_READ (R30, R244). -/
  armed_result : s.armed = true → s.result = .none
  /-- mf_last is 0x00 exactly when there has been no event since reset (R31, R32). -/
  count_last : s.mfCount = 0 ↔ s.mfLast = none
  /-- Every item emitted is one that R249 describes. -/
  items : ∀ x ∈ s.out, x.Ok s.cfg

/-- No core step is enabled: the state between events, after the drain (R250, R251). -/
abbrev State.Quiescent (s : State) : Prop := s.armed = true → s.src = []

/-- BurstState is the same in both (R28, R222). -/
abbrev State.SameBurst (s t : State) : Prop := t.avgValid = s.avgValid ∧ t.avg = s.avg

/-- The frame registers are the same in both (R33, R166). -/
abbrev State.SameFrameRegs (s t : State) : Prop :=
  t.frameCount = s.frameCount ∧ t.lastAddr = s.lastAddr ∧ t.lastCmd = s.lastCmd ∧ t.lastState = s.lastState ∧
    t.lastChk = s.lastChk ∧ t.lastPlen = s.lastPlen

/-- The environment outside the block and the model's own fields are the same in both, `out` aside. -/
abbrev State.SameOutside (s t : State) : Prop :=
  t.cfg = s.cfg ∧ t.src = s.src ∧ t.inbox = s.inbox ∧ t.scan = s.scan

/-- The unit is one of the four escape pairs (R73, R110). -/
def isPairUnit : Instr → Bool
  | .esc7E => true
  | .esc7D => true
  | .esc11 => true
  | .esc13 => true
  | .escTrailing => false
  | .escInvalid _ => false
  | .literal _ => false
  | .flag => false
  | .data _ => false
  | .rx _ => false
  | .startMeas => false
  | .startFw => false
  | .startSerial => false
  | .tick _ => false
  | .ioError => false
  | .reset => false
  | .reserved _ _ => false

/-- The number of escape pairs a stuffed body consists of, beside its literals (R110). -/
def escapePairs (s : Bytes) : Nat := (bodyUnits s).countP isPairUnit

/-- |a − b|. -/
def absDiff (a b : Nat) : Nat := (a - b) + (b - a)

/-- The magnitude, in ulps, of some finite datum of the format (R16). -/
def Representable (F : AccFormat) (m : Nat) : Prop := ∃ bits neg, unpack F bits = .fin neg m

/-- The signed value, in ulps, of a finite datum. -/
def signedMag (neg : Bool) (m : Nat) : Int := if neg then -(m : Int) else m

/-- The RESET event is the next one to be processed. -/
abbrev State.ResetIsNext (s : State) : Prop := (s.inbox.head?).map decodeEvent = some .reset

/-- The IO_ERROR event is the next one to be processed. -/
abbrev State.IoErrorIsNext (s : State) : Prop := (s.inbox.head?).map decodeEvent = some .ioError

/-- The read is at a closing flag: armed, with a frame being collected. -/
abbrev State.InFrame (s : State) : Prop := s.armed = true ∧ s.asm = .collecting

/-- Every block register has its reset value (R36). -/
def State.RegistersReset (s : State) : Prop :=
  s.armed = false ∧ s.mode = .meas ∧ s.asm = .idle ∧ s.buf = [] ∧ s.elapsed = 0 ∧ s.avgValid = false ∧
    s.avg = Lanes.zero s.cfg.accFormat ∧ s.result = .none ∧ s.mfCount = 0 ∧ s.mfLast = none ∧ s.frameCount = 0 ∧
    s.lastAddr = 0 ∧ s.lastCmd = 0 ∧ s.lastState = 0 ∧ s.lastChk = 0 ∧ s.lastPlen = 0

end Sys2Proof.Machine
end

