-- ==== Sys2Proof/Certificates/Slice0/Obligations.lean ====
section
/-! DEFINITION. The statements for the provers, after the spec's numbered rules. -/

open Sys2Proof Sys2Proof.Machine

/-! ## Encodings (30_encoding.md) -/

/-- R70 to R90: decoding an encoded well-formed instruction, of any of the three formats, gives it back, with every operand
at every value. -/
def Obligations.DecodeInvertsEncode : Prop :=
  ∀ i : Instr, i.wellFormed = true → decode (encode i) = .ok i

/-- R80 to R87: every 32-bit word has one reading, that reading is well-formed, and encoding it gives the word back. -/
def Obligations.EventEncodeInvertsDecode : Prop :=
  ∀ w : EventWord, encode (decodeEvent w) = .event w ∧ (decodeEvent w).wellFormed = true

/-- R90, event words: the reading is that of the first row of the table, in its order, whose mask and pattern match. -/
def Obligations.EventDecodeIsFirstMatchingRow : Prop :=
  ∀ w : EventWord,
    (eventRows.find? (fun r => r.hits w.toNat)).map OpcodeRow.mnemonic = some (decodeEvent w).mnemonic

/-- R87, R248: which words are reserved, and that a reserved word changes no state and emits no item, the drain after it
included. -/
def Obligations.ReservedWordsChangeNothing : Prop :=
  (∀ w : EventWord,
    (decodeEvent w).mnemonic = "RESERVED" ↔
      (eventOp w = 0x00 ∨ 0x06 ≤ (eventOp w).toNat) ∨
      (eventOp w = 0x01 ∧ w.extractLsb' 8 16 ≠ 0) ∨
      (eventOp w = 0x02 ∧ (w.extractLsb' 2 22 ≠ 0 ∨ w.extractLsb' 0 2 = 3)) ∨
      ((eventOp w = 0x04 ∨ eventOp w = 0x05) ∧ w.extractLsb' 0 24 ≠ 0)) ∧
  (∀ (op : BitVec 8) (operand : BitVec 24) (s : State), exec (.reserved op operand) s = .next s) ∧
  (∀ (w : EventWord) (s : State), (decodeEvent w).mnemonic = "RESERVED" → s.Quiescent → apply s w = .next s)

/-- R71, R73, R81 to R86: words written out from the spec's encodings decode to the instructions they stand for. -/
def Obligations.SampleWordsDecode : Prop :=
  decode (.wire 0x7E) = .ok .flag ∧ decode (.wire 0x7D) = .ok (.data 0x7D) ∧
  decode (.body [0x7D, 0x5E]) = .ok .esc7E ∧ decode (.body [0x7D, 0x33]) = .ok .esc13 ∧
  decode (.body [0x7D]) = .ok .escTrailing ∧ decode (.body [0x11]) = .ok (.literal 0x11) ∧
  decode (.event 0x010000A5) = .ok (.rx 0xA5) ∧ decode (.event 0x02000002) = .ok .startSerial ∧
  decode (.event 0x03015F90) = .ok (.tick 90000) ∧ decode (.event 0x02000003) = .ok (.reserved 0x02 3)

/-- R72, R73, R89, R90: at every point of a stuffed body the decoder finds one well-formed unit, of one byte or two, and
the unit's encoding is the bytes it took; two bytes exactly when the first is 7D and another follows, ESC_TRAILING exactly
when 7D is the last byte. -/
def Obligations.BodyUnitsAreOneOrTwoBytes : Prop :=
  ∀ (x : Byte) (rest : Bytes), ∃ i n,
    decodeUnit (x :: rest) = .ok (i, (x :: rest).drop n) ∧ encode i = .body ((x :: rest).take n) ∧
    i.format = .body ∧ i.wellFormed = true ∧ n = (if x = escByte ∧ rest ≠ [] then 2 else 1) ∧
    (i = .escTrailing ↔ x :: rest = [escByte])

/-! ## The Byte Unstuffer (40_unstuffer.md) -/

/-- R115. -/
def Obligations.UnstuffInvertsStuff : Prop := ∀ x : Bytes, unstuff (stuff x) = .ok x

/-- R111. -/
def Obligations.UnstuffIdentityWithoutEscape : Prop :=
  (∀ s : Bytes, escByte ∉ s → unstuff s = .ok s) ∧ unstuff [] = .ok []

/-- R110. -/
def Obligations.UnstuffLengthCountsPairs : Prop :=
  ∀ s u : Bytes, unstuff s = .ok u →
    u.length + escapePairs s = s.length ∧ s.length ≤ 2 * u.length ∧ u.length ≤ s.length

/-- R114, R116, first sentence: a stuffed body holds no flag and does not end in 7D; and it is at most twice as long (R7). -/
def Obligations.StuffedBodyHasNoFlag : Prop :=
  ∀ x : Bytes, flagByte ∉ stuff x ∧ (stuff x).getLast? ≠ some escByte ∧ (stuff x).length ≤ 2 * x.length

/-- R107, R108, R109: an error is that of the lowest index at which the scan fails: what lies before it unstuffs, and at it
stands a 7D that is the last byte (0x21) or that a byte outside the table follows (0x22). -/
def Obligations.UnstuffErrorIsLowestFailure : Prop :=
  ∀ (s : Bytes) (e : UnstuffError), unstuff s = .error e →
    (∃ u, unstuff (s.take e.index) = .ok u) ∧
    ((e.code = .escTrailing ∧ s.drop e.index = [escByte]) ∨
     (e.code = .escInvalid ∧ ∃ c rest, s.drop e.index = escByte :: c :: rest ∧ isEscapeCode c = false))

/-- R100, R101: a standalone call, run one unit instruction a step, answers what `unstuff` answers and changes nothing
else. The call is the model's own field `scan` (log entry 3). -/
def Obligations.StandaloneScanStepsAreUnstuff : Prop :=
  ∀ (s : State) (x : Bytes), s.inbox = [] → s.coreEnabled = false → s.scan = some (Scan.start x) →
    ∃ sc : Scan, Host.Core.run Sys2Proof.core x.length s = .next { s with scan := some sc } ∧
      sc.done = true ∧ sc.answer = unstuff x

/-- R103 to R106: each escape pair, where it stands next in a call, is decoded as its row and produces its original byte.
The call is the model's own field `scan` (log entry 3). -/
def Obligations.PairUnitsProduceTheirByte : Prop :=
  ∀ (s : State) (sc : Scan) (rest : Bytes), s.scan = some sc → sc.err = none →
    (sc.rest = [0x7D, 0x5E] ++ rest → decodeUnit sc.rest = .ok (.esc7E, rest) ∧
      exec .esc7E s = .next { s with scan := some ⟨rest, sc.index + 2, sc.u ++ [0x7E], none⟩ }) ∧
    (sc.rest = [0x7D, 0x5D] ++ rest → decodeUnit sc.rest = .ok (.esc7D, rest) ∧
      exec .esc7D s = .next { s with scan := some ⟨rest, sc.index + 2, sc.u ++ [0x7D], none⟩ }) ∧
    (sc.rest = [0x7D, 0x31] ++ rest → decodeUnit sc.rest = .ok (.esc11, rest) ∧
      exec .esc11 s = .next { s with scan := some ⟨rest, sc.index + 2, sc.u ++ [0x11], none⟩ }) ∧
    (sc.rest = [0x7D, 0x33] ++ rest → decodeUnit sc.rest = .ok (.esc13, rest) ∧
      exec .esc13 s = .next { s with scan := some ⟨rest, sc.index + 2, sc.u ++ [0x13], none⟩ })

/-- R102: a byte other than 7D is a literal and stands for itself (log entry 3 for `scan`). -/
def Obligations.LiteralUnitProducesItself : Prop :=
  ∀ (s : State) (sc : Scan) (x : Byte) (rest : Bytes), s.scan = some sc → sc.err = none → x ≠ escByte →
    sc.rest = x :: rest →
      decodeUnit sc.rest = .ok (.literal x, rest) ∧
      exec (.literal x) s = .next { s with scan := some ⟨rest, sc.index + 1, sc.u ++ [x], none⟩ }

/-- R107, R108: a 7D that is the last byte, or that a byte outside the table follows, ends the call with its code and the
index of the 7D (log entry 3 for `scan`). -/
def Obligations.FailingUnitsEndTheScan : Prop :=
  ∀ (s : State) (sc : Scan), s.scan = some sc → sc.err = none →
    (sc.rest = [0x7D] → decodeUnit sc.rest = .ok (.escTrailing, []) ∧
      exec .escTrailing s = .next { s with scan := some { sc with err := some ⟨.escTrailing, sc.index⟩ } }) ∧
    (∀ (c : Byte) (rest : Bytes), isEscapeCode c = false → sc.rest = 0x7D :: c :: rest →
      decodeUnit sc.rest = .ok (.escInvalid c, rest) ∧
      exec (.escInvalid c) s = .next { s with scan := some { sc with err := some ⟨.escInvalid, sc.index⟩ } })

/-- The MODEL's choice (log entry 6): a body unit with no call in progress, or one that has returned (Ok at the end of its
string, or with an error), does nothing. -/
def Obligations.UnitsWithoutACallDoNothing : Prop :=
  ∀ (s : State) (i : Instr), i.format = .body → (∀ sc, s.scan = some sc → sc.done = true) → exec i s = .next s

/-! ## The frame synchronizer (41_frame_sync.md) -/

/-- R131: FLAG in IDLE opens a frame. -/
def Obligations.FlagOpensFrameInIdle : Prop :=
  ∀ s : State, s.armed = true → s.asm = .idle → exec .flag s = .next { s with asm := .collecting, buf := [] }

/-- R132, R135, R272: FLAG in COLLECTING takes the buffer, goes to IDLE, and completes the body: an escape error or a
structure error is counted, recorded and emitted and the read goes on; a frame is accepted, decoded in the armed mode, and
ends the read with the decode's code. -/
def Obligations.FlagClosesFrameInCollecting : Prop :=
  ∀ s : State, s.InFrame →
    let s₁ : State := { s with asm := .idle, buf := [] }
    let report (m : Malformed) : State :=
      { s₁ with mfCount := BitVec.ofNat 32 (min (s.mfCount.toNat + 1) (2 ^ 32 - 1)), mfLast := some m,
                out := s.out ++ [.evt (.malformed m)] }
    exec .flag s = .next
      (match unstuff s.buf with
       | .error e => report e.code
       | .ok u =>
         match interpret s.cfg u with
         | .error m => report m
         | .ok f =>
           { (decodeAndEmit (s₁.accept f) f.payload).1 with
             armed := false, result := (decodeAndEmit (s₁.accept f) f.payload).2 })

/-- R133, R134, R137: DATA in each state: discarded in IDLE, appended in COLLECTING, overflow when MAX_COLLECT bytes are
held. -/
def Obligations.DataByteByState : Prop :=
  ∀ (s : State) (b : Byte), b ≠ flagByte → s.armed = true →
    (s.asm = .idle → exec (.data b) s = .next s) ∧
    (s.asm = .collecting → s.buf.length < s.cfg.maxCollect →
      exec (.data b) s = .next { s with buf := s.buf ++ [b] }) ∧
    (s.asm = .collecting → s.cfg.maxCollect ≤ s.buf.length →
      exec (.data b) s = .next
        { s with asm := .idle, buf := []
                 mfCount := BitVec.ofNat 32 (min (s.mfCount.toNat + 1) (2 ^ 32 - 1)), mfLast := some .overflow
                 out := s.out ++ [.evt (.malformed .overflow)] })

/-- The MODEL's choice (log entry 5), after R23 and R130: with no read armed a wire byte has no effect. -/
def Obligations.WireBytesNeedAnArmedRead : Prop :=
  ∀ (s : State) (i : Instr), i.format = .wire → s.armed = false → exec i s = .next s

/-- The frame of FLAG and DATA (R138, R222, R272): the parameters, the mode, the timer, the source and the model's own
fields never change; while the read goes on, so do the result, BurstState and the frame registers, and at most one item is
emitted; a byte that ends the read emits at most three. -/
def Obligations.WireBytesKeepTheRest : Prop :=
  ∀ (s t : State) (i : Instr), i.format = .wire → exec i s = .next t →
    s.SameOutside t ∧ t.mode = s.mode ∧ t.elapsed = s.elapsed ∧
    (∃ new, t.out = s.out ++ new ∧ new.length ≤ 3 ∧ (t.armed = s.armed → new.length ≤ 1)) ∧
    (t.armed = s.armed → t.result = s.result ∧ s.SameBurst t ∧ s.SameFrameRegs t) ∧
    (t.armed ≠ s.armed → t.mfCount = s.mfCount ∧ t.mfLast = s.mfLast ∧ t.asm = .idle ∧ t.buf = [])

/-- R136, R166: a completed frame that passes the interpreter is counted and recorded, and ends the read. -/
def Obligations.AcceptedFrameEndsTheRead : Prop :=
  ∀ (s : State) (u : Bytes) (f : Frame), s.InFrame → unstuff s.buf = .ok u → interpret s.cfg u = .ok f →
    ∃ t, exec .flag s = .next t ∧ t.armed = false ∧ t.asm = .idle ∧ t.buf = [] ∧
      t.frameCount.toNat = min (s.frameCount.toNat + 1) (2 ^ 32 - 1) ∧
      t.lastAddr = f.addr ∧ t.lastCmd = f.cmd ∧ t.lastState = f.st ∧ t.lastChk = f.chk ∧
      (f.payload.length < 2 ^ 16 → t.lastPlen.toNat = f.payload.length) ∧
      t.mfCount = s.mfCount ∧ t.mfLast = s.mfLast ∧ t.mode = s.mode ∧ t.elapsed = s.elapsed ∧ s.SameOutside t

/-- R116, R140: a frame sent as 7E, the stuffed body, 7E is collected whole and read as its body, from IDLE, with whatever
follows it left in the source until it is known whether the read goes on. -/
def Obligations.FramedBodyIsReadWhole : Prop :=
  ∀ (s : State) (u rest : Bytes), s.armed = true → s.asm = .idle → (stuff u).length ≤ s.cfg.maxCollect →
    s.src = wireFrame u ++ rest →
      (∀ m, interpret s.cfg u = .error m →
        s.drain = (State.raiseMalformed { s with buf := [], src := rest } m).drain) ∧
      (∀ f, interpret s.cfg u = .ok f →
        s.drain = State.finishFrame { s with buf := [], src := rest } f ∧ s.drain.armed = false ∧ s.drain.src = rest)

/-- R140, R181, R182, R61, R7: one measurement read, end to end: with the checks off, a frame that carries a record's 40
payload bytes ends the read with MEAS_OK, emits that record after the average it flushes, if any, seeds or extends the
average with it (R210 to R213), and leaves what follows in the source. -/
def Obligations.MeasFrameReadEmitsItsRecord : Prop :=
  ∀ (s : State) (r : Record) (addr cmd st chk : Byte) (rest : Bytes),
    s.cfg.Legal → s.cfg.lenCheck = false → s.cfg.chkVerify = false →
    s.armed = true → s.asm = .idle → s.mode = .meas →
    s.src = wireFrame (addr :: cmd :: st :: (measPayload r ++ [chk])) ++ rest →
      s.drain.out = s.out ++ (if s.avgValid = true ∧ s.cfg.thresholdTicks < s.elapsed.toNat then [.avg s.avg] else []) ++
        [.raw r] ∧
      s.drain.avgValid = true ∧
      s.drain.avg = (if s.avgValid = false ∨ s.cfg.thresholdTicks < s.elapsed.toNat then seedLanes s.cfg.accFormat r
        else extendLanes s.avg r) ∧
      s.drain.result = .measOk ∧ s.drain.armed = false ∧ s.drain.src = rest ∧ s.drain.lastPlen = 40 ∧
      s.drain.lastAddr = addr ∧ s.drain.lastCmd = cmd ∧ s.drain.lastState = st ∧ s.drain.lastChk = chk

/-- R134, R142: a body of more than MAX_COLLECT stuffed bytes raises OVERFLOW on the byte after the last that fits, is
discarded, and the rest of the source is read from IDLE in the same read. -/
def Obligations.OverlongBodyOverflows : Prop :=
  ∀ (s : State) (body : Bytes) (b : Byte) (rest : Bytes), s.InFrame → s.buf = [] →
    flagByte ∉ body → b ≠ flagByte → body.length = s.cfg.maxCollect → s.src = body ++ b :: rest →
      s.drain = (State.raiseMalformed { s with asm := .idle, src := rest } .overflow).drain

/-! ## The drain, the step and the run (45_host_interface.md) -/

/-- R250: the drain takes the head of the source and runs it as a core step while a read is armed and the source is not
empty, and is then done. -/
def Obligations.DrainIsRepeatedCoreSteps : Prop :=
  (∀ (s t : State) (b : Byte) (bs : Bytes), s.armed = true → s.src = b :: bs →
    exec (decodeWire b) { s with src := bs } = .next t → s.drain = t.drain) ∧
  (∀ s : State, s.armed = false ∨ s.src = [] → s.drain = s) ∧
  (∀ s : State, s.drain.armed = true → s.drain.src = [])

/-- R243, R250, R101: a step runs the decoded instruction: the next event word, taken from the inbox, with the drain after
it; with no event left, the head of the source where a core step is enabled, popped; else the unit at which a standalone
call stands; else nothing, and the block waits (log entry 4). -/
def Obligations.StepRunsDecodedInstruction : Prop :=
  (∀ (s : State) (w : EventWord) (ws : List EventWord), s.inbox = w :: ws →
    ∃ t, exec (decodeEvent w) { s with inbox := ws } = .next t ∧ step s = .next t.drain) ∧
  (∀ (s : State) (b : Byte) (bs : Bytes), s.inbox = [] → s.armed = true → s.src = b :: bs →
    step s = exec (decodeWire b) { s with src := bs }) ∧
  (∀ (s : State) (sc : Scan) (i : Instr) (rest : Bytes), s.inbox = [] → s.armed = false ∨ s.src = [] →
    s.scan = some sc → sc.err = none → decodeUnit sc.rest = .ok (i, rest) → step s = exec i s) ∧
  (∀ s : State, s.inbox = [] → s.armed = false ∨ s.src = [] → s.scan = none → step s = .next s)

/-- R271: nothing stops the block: every step answers a next state. -/
def Obligations.StepNeverStops : Prop := ∀ s : State, ∃ t, step s = .next t

/-- The power-on state, of any legal configuration and of the default one, has the invariant. -/
def Obligations.ResetHasInvariant : Prop :=
  (∀ c : Config, c.Legal → (State.powerOn c).Inv) ∧ State.reset.Inv

/-- R37, R38, R39 and what the rules keep beside them (Safety.lean, State.Inv): every step keeps the invariant. -/
def Obligations.StepKeepsInvariant : Prop :=
  ∀ s t : State, s.Inv → step s = .next t → t.Inv

/-- R250, R251: an event leaves no core step enabled: the block consumes every available byte before the next event; and a
step from a state with none enabled leaves none. -/
def Obligations.StepLeavesNoEnabledCoreStep : Prop :=
  (∀ s t : State, s.inbox ≠ [] → step s = .next t → t.Quiescent) ∧
  (∀ s t : State, s.Quiescent → step s = .next t → t.Quiescent)

/-- R20: no event and no step changes the configuration. -/
def Obligations.StepKeepsConfiguration : Prop :=
  ∀ s t : State, step s = .next t → t.cfg = s.cfg

/-- R35: the output list is append-only: no step removes or changes an item, not even RESET. -/
def Obligations.OutputOnlyGrows : Prop :=
  ∀ s t : State, step s = .next t → ∃ new, t.out = s.out ++ new

/-- R180, R244, R312: no event but RESET changes the mode of a read in progress. -/
def Obligations.ModeFixedWhileArmed : Prop :=
  ∀ s t : State, s.armed = true → ¬ s.ResetIsNext → step s = .next t → t.mode = s.mode

/-- R136: the only ways a read ends: a frame, with one of the two codes of the armed mode; IO_ERROR, with 0x40; RESET. It
ends in IDLE with nothing collected. -/
def Obligations.ReadEndsOnlyWithAResult : Prop :=
  ∀ s t : State, s.armed = true → step s = .next t → t.armed = false →
    (s.ResetIsNext ∧ t.result = .none) ∨
    (t.asm = .idle ∧ t.buf = [] ∧
      ((s.IoErrorIsNext ∧ t.result = .ioError) ∨
       (s.mode = .meas ∧ (t.result = .measOk ∨ t.result = .payloadLengthMismatch)) ∨
       (s.mode = .fw ∧ (t.result = .fwOk ∨ t.result = .fwLengthError)) ∨
       (s.mode = .serial ∧ (t.result = .serialOk ∨ t.result = .encodingError))))

/-- R243: as many steps as there are event words are the fold of `apply` over them. That the words wait in the field `inbox`
is the MODEL's choice (log entry 2). -/
def Obligations.RunIsFoldOfApply : Prop :=
  ∀ (s : State) (ws : List EventWord),
    Host.Core.run Sys2Proof.core ws.length { s with inbox := ws } = runEvents { s with inbox := [] } ws

/-- R250, R287: with no event and no standalone call, single steps over the source come to the state of the drain. That a
step with no event takes one core step by itself is the MODEL's choice (log entry 4): the spec takes core steps only inside
an event's drain. -/
def Obligations.SourceStepsAreTheDrain : Prop :=
  ∀ s : State, s.inbox = [] → s.scan = none → Host.Core.run Sys2Proof.core s.src.length s = .next s.drain

/-! ## The events (45_host_interface.md) -/

/-- R242: RX appends its byte to the source, then drains; it writes no register itself. With no read armed the byte stays
in the source. -/
def Obligations.RxAppendsToSource : Prop :=
  ∀ (s : State) (b : Byte),
    decodeEvent (eventWord 0x01 (b.zeroExtend 24)) = .rx b ∧
    exec (.rx b) s = .next { s with src := s.src ++ [b] } ∧
    apply s (eventWord 0x01 (b.zeroExtend 24)) = .next (State.drain { s with src := s.src ++ [b] }) ∧
    (s.armed = false → apply s (eventWord 0x01 (b.zeroExtend 24)) = .next { s with src := s.src ++ [b] })

/-- R244: START_READ arms a read in its mode with the timer and the result cleared, and is ignored while one is armed;
what waits in the source is drained in the same event. -/
def Obligations.StartReadArmsOrIsIgnored : Prop :=
  ∀ (s : State) (m : Mode),
    let i : Instr := match m with | .meas => .startMeas | .fw => .startFw | .serial => .startSerial
    let w : EventWord := match m with | .meas => 0x02000000 | .fw => 0x02000001 | .serial => 0x02000002
    let t : State := { s with armed := true, mode := m, elapsed := 0, result := .none }
    decodeEvent w = i ∧
    (s.armed = false → exec i s = .next t ∧ apply s w = .next t.drain) ∧
    (s.armed = true → exec i s = .next s ∧ apply s w = .next s.drain)

/-- R245: TICK n adds n to the timer while a read is armed, saturating at 2^32 − 1, and changes nothing otherwise. -/
def Obligations.TickCountsWhileArmed : Prop :=
  ∀ (s : State) (n : BitVec 24),
    decodeEvent (eventWord 0x03 n) = .tick n ∧
    (s.armed = true → ∃ e : BitVec 32, e.toNat = min (s.elapsed.toNat + n.toNat) (2 ^ 32 - 1) ∧
      exec (.tick n) s = .next { s with elapsed := e }) ∧
    (s.armed = false → exec (.tick n) s = .next s)

/-- R246: IO_ERROR ends an armed read with 0x40, discards the partial frame and reports; with no read armed it has no
effect. -/
def Obligations.IoErrorEndsTheRead : Prop :=
  ∀ s : State,
    decodeEvent 0x04000000 = .ioError ∧ ReadResult.ioError.code = 0x40 ∧
    (s.armed = true → exec .ioError s = .next
      { s with buf := [], asm := .idle, armed := false, result := .ioError,
               out := s.out ++ [.evt (.result .ioError)] }) ∧
    (s.armed = false → exec .ioError s = .next s)

/-- R36, R247: at power-on and at RESET every register has its reset value; power-on has an empty source and output list,
RESET keeps them, drains nothing and emits nothing. -/
def Obligations.ResetRestoresRegisters : Prop :=
  (∀ c : Config, (State.powerOn c).RegistersReset ∧ (State.powerOn c).src = [] ∧ (State.powerOn c).out = []) ∧
  decodeEvent 0x05000000 = .reset ∧
  (∀ s : State, ∃ t, exec .reset s = .next t ∧ apply s 0x05000000 = .next t ∧ t.RegistersReset ∧ t.out = s.out ∧
    t.src = s.src ∧ t.cfg = s.cfg)

/-- The frame of the events' own actions outside the block: none touches the parameters or the MODEL's own fields (log
entries 1, 2, 3 and 17), and RX alone touches the source. -/
def Obligations.EventsKeepTheEnvironment : Prop :=
  ∀ (s t : State) (i : Instr), i.format = .event → exec i s = .next t →
    t.cfg = s.cfg ∧ t.inbox = s.inbox ∧ t.scan = s.scan ∧ ((∀ b, i ≠ .rx b) → t.src = s.src) ∧
      ∃ new, t.out = s.out ++ new

/-! ## The Frame Interpreter (42_interpreter.md) -/

/-- R160 to R165, R168: the fields of a body and its checks in their order: SHORT, LENGTH (if enabled), CHECKSUM (if
enabled). -/
def Obligations.InterpretChecksInOrder : Prop :=
  (∀ (c : Config) (u : Bytes), u.length < 5 → interpret c u = .error .short) ∧
  (∀ (c : Config) (addr cmd st chk : Byte) (p : Bytes), p ≠ [] →
    interpret c (addr :: cmd :: st :: (p ++ [chk])) =
      if c.lenCheck = true ∧ st.toNat ≠ p.length then .error .length
      else if c.chkVerify = true ∧
          chk.toNat ≠ 255 - (addr.toNat + cmd.toNat + st.toNat + (p.map BitVec.toNat).sum) % 256 then .error .checksum
      else .ok ⟨addr, cmd, st, p, chk⟩)

/-! ## The Payload Codec (43_payload_codec.md) -/

/-- R53, R75, R182: a measurement payload's forty bytes decode to the ten words they are, big-endian, in field order, every
bit kept. -/
def Obligations.MeasPayloadRoundTrip : Prop :=
  ∀ r : Record, (measPayload r).length = 40 ∧ decode40 (measPayload r) = r ∧
    (∀ p : Bytes, p.length = 40 → measPayload (decode40 p) = p)

/-- R28, R61, R181, R184, R210 to R213, R218: the items of a MEAS completion in their order, its code, the zero record for a
payload that is not 40 bytes, and what it leaves in the running average: the record's lanes where it starts a burst, the old
lanes extended by it where it does not. -/
def Obligations.MeasCompletionItemsInOrder : Prop :=
  ∀ (s : State) (u : Bytes) (f : Frame), s.InFrame → s.mode = .meas → unstuff s.buf = .ok u →
    interpret s.cfg u = .ok f →
      let lanesWith (r : Record) : Lanes :=
        if s.avgValid = false ∨ s.cfg.thresholdTicks < s.elapsed.toNat then seedLanes s.cfg.accFormat r
        else extendLanes s.avg r
      ∃ t, exec .flag s = .next t ∧ t.armed = false ∧ t.avgValid = true ∧
        (f.payload.length = 40 → t.result = .measOk ∧ t.avg = lanesWith (decode40 f.payload) ∧ t.out = s.out ++
          (if s.avgValid = true ∧ s.cfg.thresholdTicks < s.elapsed.toNat then [.avg s.avg] else []) ++
          [.raw (decode40 f.payload)]) ∧
        (f.payload.length ≠ 40 → t.result = .payloadLengthMismatch ∧
          t.avg = lanesWith (Fields.const 0) ∧
          t.out = s.out ++ [.evt (.result .payloadLengthMismatch)] ++
          (if s.avgValid = true ∧ s.cfg.thresholdTicks < s.elapsed.toNat then [.avg s.avg] else []) ++
          [.raw (Fields.const 0)])

/-- R185, R189, R222: the two ways a FW read's frame ends: seven signed bytes, or FW_LENGTH_ERROR; BurstState is not
touched. -/
def Obligations.FirmwareCompletion : Prop :=
  ∀ (s : State) (u : Bytes) (f : Frame), s.InFrame → s.mode = .fw → unstuff s.buf = .ok u →
    interpret s.cfg u = .ok f →
      ∃ t, exec .flag s = .next t ∧ t.armed = false ∧ s.SameBurst t ∧
        (∀ b0 b1 b2 b3 b4 b5 b6 : Byte, f.payload = [b0, b1, b2, b3, b4, b5, b6] → t.result = .fwOk ∧
          t.out = s.out ++ [.fw ⟨b0.toInt, b1.toInt, b2.toInt, b3.toInt, b4.toInt, b5.toInt, b6.toInt⟩]) ∧
        (f.payload.length ≠ 7 → t.result = .fwLengthError ∧ t.out = s.out ++ [.evt (.result .fwLengthError)])

/-- R187, R188, R190, R222: the two ways a SERIAL read's frame ends: every byte of the payload in order where all are in
0x00 to 0x7F, or ENCODING_ERROR; BurstState is not touched. -/
def Obligations.SerialCompletion : Prop :=
  ∀ (s : State) (u : Bytes) (f : Frame), s.InFrame → s.mode = .serial → unstuff s.buf = .ok u →
    interpret s.cfg u = .ok f →
      ∃ t, exec .flag s = .next t ∧ t.armed = false ∧ s.SameBurst t ∧ 1 ≤ f.payload.length ∧
        ((∀ b ∈ f.payload, b.toNat ≤ 0x7F) → t.result = .serialOk ∧ t.out = s.out ++ [.serial f.payload]) ∧
        ((∃ b ∈ f.payload, 0x7F < b.toNat) → t.result = .encodingError ∧
          t.out = s.out ++ [.evt (.result .encodingError)])

/-! ## The Burst Smoother (44_burst_smoother.md) -/

/-- R210 to R213, R218: a record with no average seeds; one whose read took longer than the threshold flushes and seeds;
one at or below it extends; each is then emitted raw. A saturated timer always starts a new burst (R211, R8). -/
def Obligations.SmoothByClassification : Prop :=
  (∀ (s : State) (r : Record),
    (s.avgValid = false → s.smooth r =
      { s with avgValid := true, avg := seedLanes s.cfg.accFormat r, out := s.out ++ [.raw r] }) ∧
    (s.avgValid = true → s.cfg.thresholdTicks < s.elapsed.toNat → s.smooth r =
      { s with avg := seedLanes s.cfg.accFormat r, out := s.out ++ [.avg s.avg, .raw r] }) ∧
    (s.avgValid = true → s.elapsed.toNat ≤ s.cfg.thresholdTicks → s.smooth r =
      { s with avg := extendLanes s.avg r, out := s.out ++ [.raw r] })) ∧
  (∀ s : State, s.cfg.Legal → s.elapsed.toNat = 2 ^ 32 - 1 → s.startsNewBurst = true)

/-- R212, R213, R215: each lane is seeded from its own field and averaged with it, in the lanes' format. -/
def Obligations.LanesAveragedIndependently : Prop :=
  ∀ (r : Record) (i : Fin 10),
    (∃ q, seedLanes .binary32 r = .b32 q ∧ q.get i = r.get i) ∧
    (∃ q, seedLanes .binary64 r = .b64 q ∧ q.get i = widen64 (r.get i)) ∧
    (∀ a : Fields F32, ∃ q, extendLanes (.b32 a) r = .b32 q ∧ q.get i = avg2Bits32 (a.get i) (r.get i)) ∧
    (∀ a : Fields F64, ∃ q, extendLanes (.b64 a) r = .b64 q ∧ q.get i = avg2Bits64 (a.get i) (widen64 (r.get i)))

/-- R16, R217: fl_F of ± n / 2^k ulps keeps the sign; a finite answer is a magnitude of the format, none of the format's is
nearer, and of two as near it is the one whose pattern is even; it is infinite exactly when the exact magnitude reaches the
largest finite one by half a unit of its last place or more. -/
def Obligations.RoundingIsToNearestEven : Prop :=
  ∀ (F : AccFormat) (neg : Bool) (n k : Nat),
    (∀ neg' m, fl F neg n k = .fin neg' m → neg' = neg ∧ Representable F m ∧
      ∀ m', Representable F m' →
        absDiff (m * 2 ^ k) n ≤ absDiff (m' * 2 ^ k) n ∧
        (m' ≠ m → absDiff (m' * 2 ^ k) n = absDiff (m * 2 ^ k) n → packMag F m % 2 = 0)) ∧
    ((2 ^ (fracBits F + 2) - 1) * 2 ^ (expOnes F - 2) * 2 ^ k ≤ 2 * n → fl F neg n k = .inf neg) ∧
    (2 * n < (2 ^ (fracBits F + 2) - 1) * 2 ^ (expOnes F - 2) * 2 ^ k → ∃ m, fl F neg n k = .fin neg m)

/-- R214: for finite operands avg2 is the exact sum, rounded, then halved, rounded; a zero sum is −0 only for two negative
operands, and a sum that rounds to infinity stays infinite. An infinity and a finite operand, or two infinities of one sign,
give that infinity. On patterns, avg2 is this on what the patterns stand for. -/
def Obligations.AverageOfFinitesIsTwoRoundedOperations : Prop :=
  (∀ (F : AccFormat) (a b : Bool) (m n : Nat),
    avg2 F (.fin a m) (.fin b n) =
      (match (if signedMag a m + signedMag b n = 0 then Datum.fin (a && b) 0
        else fl F (decide (signedMag a m + signedMag b n < 0)) (signedMag a m + signedMag b n).natAbs 0) with
       | .fin c k => fl F c k 1
       | .inf c => .inf c
       | .nan => .nan)) ∧
  (∀ (F : AccFormat) (a b : Bool) (m : Nat), avg2 F (.inf a) (.fin b m) = .inf a ∧ avg2 F (.fin b m) (.inf a) = .inf a ∧
    avg2 F (.inf a) (.inf a) = .inf a) ∧
  (∀ a b : F32, unpack .binary32 (avg2Bits32 a b).toNat =
    avg2 .binary32 (unpack .binary32 a.toNat) (unpack .binary32 b.toNat)) ∧
  (∀ a b : F64, unpack .binary64 (avg2Bits64 a b).toNat =
    avg2 .binary64 (unpack .binary64 a.toNat) (unpack .binary64 b.toNat))

/-- R216: every NaN that avg2 produces is the canonical one, and it produces it for a NaN operand and for ∞ − ∞; decoding
and seeding in binary32 copy the pattern; widening a NaN gives the canonical one. -/
def Obligations.NaNResultsAreCanonical : Prop :=
  (∀ a b : F32, unpack .binary32 (avg2Bits32 a b).toNat = .nan → avg2Bits32 a b = 0x7FC00000) ∧
  (∀ a b : F32, unpack .binary32 a.toNat = .nan ∨ unpack .binary32 b.toNat = .nan → avg2Bits32 a b = 0x7FC00000) ∧
  (∀ a b : F64, unpack .binary64 (avg2Bits64 a b).toNat = .nan → avg2Bits64 a b = 0x7FF8000000000000) ∧
  (∀ a b : F64, unpack .binary64 a.toNat = .nan ∨ unpack .binary64 b.toNat = .nan →
    avg2Bits64 a b = 0x7FF8000000000000) ∧
  avg2Bits32 0x7F800000 0xFF800000 = 0x7FC00000 ∧
  avg2Bits64 0x7FF0000000000000 0xFFF0000000000000 = 0x7FF8000000000000 ∧
  (∀ r : Record, decode40 (measPayload r) = r ∧ seedLanes .binary32 r = .b32 r) ∧
  (∀ x : F32, unpack .binary32 x.toNat = .nan → widen64 x = 0x7FF8000000000000)

/-- R215: widening to binary64 is exact: the same infinity, or the same sign and the same value (2^925 ulps of binary64 are
one ulp of binary32). -/
def Obligations.WidenIsExact : Prop :=
  ∀ x : F32,
    (∀ neg, unpack .binary32 x.toNat = .inf neg → unpack .binary64 (widen64 x).toNat = .inf neg) ∧
    (∀ neg m, unpack .binary32 x.toNat = .fin neg m → unpack .binary64 (widen64 x).toNat = .fin neg (m * 2 ^ 925))

/-- R76: packing the datum of a pattern that is no NaN gives the pattern back, in both formats. -/
def Obligations.PackInvertsUnpack : Prop :=
  (∀ x : F32, unpack .binary32 x.toNat ≠ .nan → pack .binary32 (unpack .binary32 x.toNat) = x.toNat) ∧
  (∀ x : F64, unpack .binary64 x.toNat ≠ .nan → pack .binary64 (unpack .binary64 x.toNat) = x.toNat)

/-- R222: a read in FW or SERIAL mode touches BurstState at no step but RESET; nor do IO_ERROR, TICK and a reserved word
between steps. -/
def Obligations.BurstUntouchedOutsideMeas : Prop :=
  (∀ s t : State, s.armed = true → s.mode ≠ .meas → ¬ s.ResetIsNext → step s = .next t → s.SameBurst t) ∧
  (∀ (s t : State) (w : EventWord) (ws : List EventWord), s.Quiescent → s.inbox = w :: ws →
    (decodeEvent w = .ioError ∨ (∃ n, decodeEvent w = .tick n) ∨ ∃ op x, decodeEvent w = .reserved op x) →
      step s = .next t → s.SameBurst t)

/-! ## Registers, codes and the sink -/

/-- R34, R57, R58: what the host reads of each register. `buf_len` has the least width that holds MAX_COLLECT (R26), and
`mf_last` reads 0x00 until there is an event and the last one's code after (R32). -/
def Obligations.HostReadsTheRegisters : Prop :=
  ∀ s : State,
    hostRead s .armed = ⟨1, if s.armed then 1 else 0⟩ ∧ hostRead s .avgValid = ⟨1, if s.avgValid then 1 else 0⟩ ∧
    (∃ w, hostRead s .bufLen = ⟨w, s.buf.length⟩ ∧ s.cfg.maxCollect < 2 ^ w ∧ ∀ v, s.cfg.maxCollect < 2 ^ v → w ≤ v) ∧
    hostRead s .elapsed = ⟨32, s.elapsed.toNat⟩ ∧
    hostRead s .mfCount = ⟨32, s.mfCount.toNat⟩ ∧ hostRead s .frameCount = ⟨32, s.frameCount.toNat⟩ ∧
    hostRead s .lastAddr = ⟨8, s.lastAddr.toNat⟩ ∧ hostRead s .lastCmd = ⟨8, s.lastCmd.toNat⟩ ∧
    hostRead s .lastState = ⟨8, s.lastState.toNat⟩ ∧ hostRead s .lastChk = ⟨8, s.lastChk.toNat⟩ ∧
    hostRead s .lastPlen = ⟨16, s.lastPlen.toNat⟩ ∧
    hostRead s .mode = ⟨2, match s.mode with | .meas => 0 | .fw => 1 | .serial => 2⟩ ∧
    hostRead s .asm = ⟨1, match s.asm with | .idle => 0 | .collecting => 1⟩ ∧
    hostRead s .result = ⟨8, (Cause.result s.result).code.toNat⟩ ∧
    (s.mfLast = none → hostRead s .mfLast = ⟨8, 0x00⟩) ∧
    (∀ m, s.mfLast = some m → hostRead s .mfLast = ⟨8, (Cause.malformed m).code.toNat⟩) ∧
    (∀ (a : Fields F32) (i : Fin 10), s.avg = .b32 a → hostRead s (.avg i) = ⟨32, (a.get i).toNat⟩) ∧
    (∀ (a : Fields F64) (i : Fin 10), s.avg = .b64 a → hostRead s (.avg i) = ⟨64, (a.get i).toNat⟩)

/-- R270: the code and the class of every cause, and that no two causes share a code. -/
def Obligations.CauseCodesOfTheTable : Prop :=
  ([Cause.result .none, .result .measOk, .result .fwOk, .result .serialOk, .result .payloadLengthMismatch,
    .malformed .short, .malformed .escTrailing, .malformed .escInvalid, .malformed .overflow, .malformed .length,
    .malformed .checksum, .result .encodingError, .result .fwLengthError, .result .ioError].map Cause.code =
   [0x00, 0x01, 0x02, 0x03, 0x10, 0x20, 0x21, 0x22, 0x23, 0x24, 0x25, 0x30, 0x31, 0x40]) ∧
  (∀ c : Cause, c.responseClass =
    if c.code = 0x00 then .noResponse
    else if c.code.toNat < 0x10 then .completion
    else if c.code.toNat < 0x20 then .substituted
    else if c.code.toNat < 0x30 then .malformedFrame
    else .propagated) ∧
  (∀ a b : Cause, a.code = b.code → a = b)

/-- R31, R33, R319: the two counters never go down but by RESET. -/
def Obligations.CountersNeverDecrease : Prop :=
  ∀ s t : State, ¬ s.ResetIsNext → step s = .next t →
    s.mfCount.toNat ≤ t.mfCount.toNat ∧ s.frameCount.toNat ≤ t.frameCount.toNat

/-- R219: a finite lane is rendered as the multiple of 10^−d nearest to its exact value, the even one where two are as near
(the value is ± m / 2^minExp); a lane that is infinite or NaN has no rendering. -/
def Obligations.RenderedLaneIsNearestEven : Prop :=
  ∀ (F : AccFormat) (bits d : Nat),
    (∀ neg m, unpack F bits = .fin neg m → ∃ n : Nat,
      renderLane F bits d = some (signedMag neg n) ∧
      2 * absDiff (n * 2 ^ minExp F) (m * 10 ^ d) ≤ 2 ^ minExp F ∧
      (2 * absDiff (n * 2 ^ minExp F) (m * 10 ^ d) = 2 ^ minExp F → n % 2 = 0)) ∧
    ((∀ neg m, unpack F bits ≠ .fin neg m) → renderLane F bits d = none)
end

