-- ==== Sys2Proof/Laws/State.lean ====
section
/-! SUPPORT. One lemma per field of State per unconditional update of it, so that no later proof unfolds an update. -/

namespace Sys2Proof.Machine

variable (s : State)

/-! ## emit -/

@[simp] theorem State.emit_cfg (x : Item) : (s.emit x).cfg = s.cfg := rfl
@[simp] theorem State.emit_armed (x : Item) : (s.emit x).armed = s.armed := rfl
@[simp] theorem State.emit_mode (x : Item) : (s.emit x).mode = s.mode := rfl
@[simp] theorem State.emit_asm (x : Item) : (s.emit x).asm = s.asm := rfl
@[simp] theorem State.emit_buf (x : Item) : (s.emit x).buf = s.buf := rfl
@[simp] theorem State.emit_elapsed (x : Item) : (s.emit x).elapsed = s.elapsed := rfl
@[simp] theorem State.emit_avgValid (x : Item) : (s.emit x).avgValid = s.avgValid := rfl
@[simp] theorem State.emit_avg (x : Item) : (s.emit x).avg = s.avg := rfl
@[simp] theorem State.emit_result (x : Item) : (s.emit x).result = s.result := rfl
@[simp] theorem State.emit_mfCount (x : Item) : (s.emit x).mfCount = s.mfCount := rfl
@[simp] theorem State.emit_mfLast (x : Item) : (s.emit x).mfLast = s.mfLast := rfl
@[simp] theorem State.emit_frameCount (x : Item) : (s.emit x).frameCount = s.frameCount := rfl
@[simp] theorem State.emit_lastAddr (x : Item) : (s.emit x).lastAddr = s.lastAddr := rfl
@[simp] theorem State.emit_lastCmd (x : Item) : (s.emit x).lastCmd = s.lastCmd := rfl
@[simp] theorem State.emit_lastState (x : Item) : (s.emit x).lastState = s.lastState := rfl
@[simp] theorem State.emit_lastChk (x : Item) : (s.emit x).lastChk = s.lastChk := rfl
@[simp] theorem State.emit_lastPlen (x : Item) : (s.emit x).lastPlen = s.lastPlen := rfl
@[simp] theorem State.emit_src (x : Item) : (s.emit x).src = s.src := rfl
@[simp] theorem State.emit_out (x : Item) : (s.emit x).out = s.out ++ [x] := rfl
@[simp] theorem State.emit_inbox (x : Item) : (s.emit x).inbox = s.inbox := rfl
@[simp] theorem State.emit_scan (x : Item) : (s.emit x).scan = s.scan := rfl

/-! ## memWrite -/

@[simp] theorem State.memWrite_cfg (b : Byte) : (s.memWrite b).cfg = s.cfg := rfl
@[simp] theorem State.memWrite_armed (b : Byte) : (s.memWrite b).armed = s.armed := rfl
@[simp] theorem State.memWrite_mode (b : Byte) : (s.memWrite b).mode = s.mode := rfl
@[simp] theorem State.memWrite_asm (b : Byte) : (s.memWrite b).asm = s.asm := rfl
@[simp] theorem State.memWrite_buf (b : Byte) : (s.memWrite b).buf = s.buf ++ [b] := rfl
@[simp] theorem State.memWrite_elapsed (b : Byte) : (s.memWrite b).elapsed = s.elapsed := rfl
@[simp] theorem State.memWrite_avgValid (b : Byte) : (s.memWrite b).avgValid = s.avgValid := rfl
@[simp] theorem State.memWrite_avg (b : Byte) : (s.memWrite b).avg = s.avg := rfl
@[simp] theorem State.memWrite_result (b : Byte) : (s.memWrite b).result = s.result := rfl
@[simp] theorem State.memWrite_mfCount (b : Byte) : (s.memWrite b).mfCount = s.mfCount := rfl
@[simp] theorem State.memWrite_mfLast (b : Byte) : (s.memWrite b).mfLast = s.mfLast := rfl
@[simp] theorem State.memWrite_frameCount (b : Byte) : (s.memWrite b).frameCount = s.frameCount := rfl
@[simp] theorem State.memWrite_lastAddr (b : Byte) : (s.memWrite b).lastAddr = s.lastAddr := rfl
@[simp] theorem State.memWrite_lastCmd (b : Byte) : (s.memWrite b).lastCmd = s.lastCmd := rfl
@[simp] theorem State.memWrite_lastState (b : Byte) : (s.memWrite b).lastState = s.lastState := rfl
@[simp] theorem State.memWrite_lastChk (b : Byte) : (s.memWrite b).lastChk = s.lastChk := rfl
@[simp] theorem State.memWrite_lastPlen (b : Byte) : (s.memWrite b).lastPlen = s.lastPlen := rfl
@[simp] theorem State.memWrite_src (b : Byte) : (s.memWrite b).src = s.src := rfl
@[simp] theorem State.memWrite_out (b : Byte) : (s.memWrite b).out = s.out := rfl
@[simp] theorem State.memWrite_inbox (b : Byte) : (s.memWrite b).inbox = s.inbox := rfl
@[simp] theorem State.memWrite_scan (b : Byte) : (s.memWrite b).scan = s.scan := rfl

/-! ## deliver -/

@[simp] theorem State.deliver_cfg (b : Byte) : (s.deliver b).cfg = s.cfg := rfl
@[simp] theorem State.deliver_armed (b : Byte) : (s.deliver b).armed = s.armed := rfl
@[simp] theorem State.deliver_mode (b : Byte) : (s.deliver b).mode = s.mode := rfl
@[simp] theorem State.deliver_asm (b : Byte) : (s.deliver b).asm = s.asm := rfl
@[simp] theorem State.deliver_buf (b : Byte) : (s.deliver b).buf = s.buf := rfl
@[simp] theorem State.deliver_elapsed (b : Byte) : (s.deliver b).elapsed = s.elapsed := rfl
@[simp] theorem State.deliver_avgValid (b : Byte) : (s.deliver b).avgValid = s.avgValid := rfl
@[simp] theorem State.deliver_avg (b : Byte) : (s.deliver b).avg = s.avg := rfl
@[simp] theorem State.deliver_result (b : Byte) : (s.deliver b).result = s.result := rfl
@[simp] theorem State.deliver_mfCount (b : Byte) : (s.deliver b).mfCount = s.mfCount := rfl
@[simp] theorem State.deliver_mfLast (b : Byte) : (s.deliver b).mfLast = s.mfLast := rfl
@[simp] theorem State.deliver_frameCount (b : Byte) : (s.deliver b).frameCount = s.frameCount := rfl
@[simp] theorem State.deliver_lastAddr (b : Byte) : (s.deliver b).lastAddr = s.lastAddr := rfl
@[simp] theorem State.deliver_lastCmd (b : Byte) : (s.deliver b).lastCmd = s.lastCmd := rfl
@[simp] theorem State.deliver_lastState (b : Byte) : (s.deliver b).lastState = s.lastState := rfl
@[simp] theorem State.deliver_lastChk (b : Byte) : (s.deliver b).lastChk = s.lastChk := rfl
@[simp] theorem State.deliver_lastPlen (b : Byte) : (s.deliver b).lastPlen = s.lastPlen := rfl
@[simp] theorem State.deliver_src (b : Byte) : (s.deliver b).src = s.src ++ [b] := rfl
@[simp] theorem State.deliver_out (b : Byte) : (s.deliver b).out = s.out := rfl
@[simp] theorem State.deliver_inbox (b : Byte) : (s.deliver b).inbox = s.inbox := rfl
@[simp] theorem State.deliver_scan (b : Byte) : (s.deliver b).scan = s.scan := rfl

/-! ## openFrame -/

@[simp] theorem State.openFrame_cfg : (s.openFrame).cfg = s.cfg := rfl
@[simp] theorem State.openFrame_armed : (s.openFrame).armed = s.armed := rfl
@[simp] theorem State.openFrame_mode : (s.openFrame).mode = s.mode := rfl
@[simp] theorem State.openFrame_asm : (s.openFrame).asm = .collecting := rfl
@[simp] theorem State.openFrame_buf : (s.openFrame).buf = [] := rfl
@[simp] theorem State.openFrame_elapsed : (s.openFrame).elapsed = s.elapsed := rfl
@[simp] theorem State.openFrame_avgValid : (s.openFrame).avgValid = s.avgValid := rfl
@[simp] theorem State.openFrame_avg : (s.openFrame).avg = s.avg := rfl
@[simp] theorem State.openFrame_result : (s.openFrame).result = s.result := rfl
@[simp] theorem State.openFrame_mfCount : (s.openFrame).mfCount = s.mfCount := rfl
@[simp] theorem State.openFrame_mfLast : (s.openFrame).mfLast = s.mfLast := rfl
@[simp] theorem State.openFrame_frameCount : (s.openFrame).frameCount = s.frameCount := rfl
@[simp] theorem State.openFrame_lastAddr : (s.openFrame).lastAddr = s.lastAddr := rfl
@[simp] theorem State.openFrame_lastCmd : (s.openFrame).lastCmd = s.lastCmd := rfl
@[simp] theorem State.openFrame_lastState : (s.openFrame).lastState = s.lastState := rfl
@[simp] theorem State.openFrame_lastChk : (s.openFrame).lastChk = s.lastChk := rfl
@[simp] theorem State.openFrame_lastPlen : (s.openFrame).lastPlen = s.lastPlen := rfl
@[simp] theorem State.openFrame_src : (s.openFrame).src = s.src := rfl
@[simp] theorem State.openFrame_out : (s.openFrame).out = s.out := rfl
@[simp] theorem State.openFrame_inbox : (s.openFrame).inbox = s.inbox := rfl
@[simp] theorem State.openFrame_scan : (s.openFrame).scan = s.scan := rfl

/-! ## closeFrame -/

@[simp] theorem State.closeFrame_cfg : (s.closeFrame).cfg = s.cfg := rfl
@[simp] theorem State.closeFrame_armed : (s.closeFrame).armed = s.armed := rfl
@[simp] theorem State.closeFrame_mode : (s.closeFrame).mode = s.mode := rfl
@[simp] theorem State.closeFrame_asm : (s.closeFrame).asm = .idle := rfl
@[simp] theorem State.closeFrame_buf : (s.closeFrame).buf = [] := rfl
@[simp] theorem State.closeFrame_elapsed : (s.closeFrame).elapsed = s.elapsed := rfl
@[simp] theorem State.closeFrame_avgValid : (s.closeFrame).avgValid = s.avgValid := rfl
@[simp] theorem State.closeFrame_avg : (s.closeFrame).avg = s.avg := rfl
@[simp] theorem State.closeFrame_result : (s.closeFrame).result = s.result := rfl
@[simp] theorem State.closeFrame_mfCount : (s.closeFrame).mfCount = s.mfCount := rfl
@[simp] theorem State.closeFrame_mfLast : (s.closeFrame).mfLast = s.mfLast := rfl
@[simp] theorem State.closeFrame_frameCount : (s.closeFrame).frameCount = s.frameCount := rfl
@[simp] theorem State.closeFrame_lastAddr : (s.closeFrame).lastAddr = s.lastAddr := rfl
@[simp] theorem State.closeFrame_lastCmd : (s.closeFrame).lastCmd = s.lastCmd := rfl
@[simp] theorem State.closeFrame_lastState : (s.closeFrame).lastState = s.lastState := rfl
@[simp] theorem State.closeFrame_lastChk : (s.closeFrame).lastChk = s.lastChk := rfl
@[simp] theorem State.closeFrame_lastPlen : (s.closeFrame).lastPlen = s.lastPlen := rfl
@[simp] theorem State.closeFrame_src : (s.closeFrame).src = s.src := rfl
@[simp] theorem State.closeFrame_out : (s.closeFrame).out = s.out := rfl
@[simp] theorem State.closeFrame_inbox : (s.closeFrame).inbox = s.inbox := rfl
@[simp] theorem State.closeFrame_scan : (s.closeFrame).scan = s.scan := rfl

/-! ## raiseMalformed -/

@[simp] theorem State.raiseMalformed_cfg (m : Malformed) : (s.raiseMalformed m).cfg = s.cfg := rfl
@[simp] theorem State.raiseMalformed_armed (m : Malformed) : (s.raiseMalformed m).armed = s.armed := rfl
@[simp] theorem State.raiseMalformed_mode (m : Malformed) : (s.raiseMalformed m).mode = s.mode := rfl
@[simp] theorem State.raiseMalformed_asm (m : Malformed) : (s.raiseMalformed m).asm = s.asm := rfl
@[simp] theorem State.raiseMalformed_buf (m : Malformed) : (s.raiseMalformed m).buf = s.buf := rfl
@[simp] theorem State.raiseMalformed_elapsed (m : Malformed) : (s.raiseMalformed m).elapsed = s.elapsed := rfl
@[simp] theorem State.raiseMalformed_avgValid (m : Malformed) : (s.raiseMalformed m).avgValid = s.avgValid := rfl
@[simp] theorem State.raiseMalformed_avg (m : Malformed) : (s.raiseMalformed m).avg = s.avg := rfl
@[simp] theorem State.raiseMalformed_result (m : Malformed) : (s.raiseMalformed m).result = s.result := rfl
@[simp] theorem State.raiseMalformed_mfCount (m : Malformed) : (s.raiseMalformed m).mfCount = sat 32 (s.mfCount.toNat + 1) := rfl
@[simp] theorem State.raiseMalformed_mfLast (m : Malformed) : (s.raiseMalformed m).mfLast = some m := rfl
@[simp] theorem State.raiseMalformed_frameCount (m : Malformed) : (s.raiseMalformed m).frameCount = s.frameCount := rfl
@[simp] theorem State.raiseMalformed_lastAddr (m : Malformed) : (s.raiseMalformed m).lastAddr = s.lastAddr := rfl
@[simp] theorem State.raiseMalformed_lastCmd (m : Malformed) : (s.raiseMalformed m).lastCmd = s.lastCmd := rfl
@[simp] theorem State.raiseMalformed_lastState (m : Malformed) : (s.raiseMalformed m).lastState = s.lastState := rfl
@[simp] theorem State.raiseMalformed_lastChk (m : Malformed) : (s.raiseMalformed m).lastChk = s.lastChk := rfl
@[simp] theorem State.raiseMalformed_lastPlen (m : Malformed) : (s.raiseMalformed m).lastPlen = s.lastPlen := rfl
@[simp] theorem State.raiseMalformed_src (m : Malformed) : (s.raiseMalformed m).src = s.src := rfl
@[simp] theorem State.raiseMalformed_out (m : Malformed) : (s.raiseMalformed m).out = s.out ++ [.evt (.malformed m)] := rfl
@[simp] theorem State.raiseMalformed_inbox (m : Malformed) : (s.raiseMalformed m).inbox = s.inbox := rfl
@[simp] theorem State.raiseMalformed_scan (m : Malformed) : (s.raiseMalformed m).scan = s.scan := rfl

/-! ## endRead -/

@[simp] theorem State.endRead_cfg (r : ReadResult) : (s.endRead r).cfg = s.cfg := rfl
@[simp] theorem State.endRead_armed (r : ReadResult) : (s.endRead r).armed = false := rfl
@[simp] theorem State.endRead_mode (r : ReadResult) : (s.endRead r).mode = s.mode := rfl
@[simp] theorem State.endRead_asm (r : ReadResult) : (s.endRead r).asm = s.asm := rfl
@[simp] theorem State.endRead_buf (r : ReadResult) : (s.endRead r).buf = s.buf := rfl
@[simp] theorem State.endRead_elapsed (r : ReadResult) : (s.endRead r).elapsed = s.elapsed := rfl
@[simp] theorem State.endRead_avgValid (r : ReadResult) : (s.endRead r).avgValid = s.avgValid := rfl
@[simp] theorem State.endRead_avg (r : ReadResult) : (s.endRead r).avg = s.avg := rfl
@[simp] theorem State.endRead_result (r : ReadResult) : (s.endRead r).result = r := rfl
@[simp] theorem State.endRead_mfCount (r : ReadResult) : (s.endRead r).mfCount = s.mfCount := rfl
@[simp] theorem State.endRead_mfLast (r : ReadResult) : (s.endRead r).mfLast = s.mfLast := rfl
@[simp] theorem State.endRead_frameCount (r : ReadResult) : (s.endRead r).frameCount = s.frameCount := rfl
@[simp] theorem State.endRead_lastAddr (r : ReadResult) : (s.endRead r).lastAddr = s.lastAddr := rfl
@[simp] theorem State.endRead_lastCmd (r : ReadResult) : (s.endRead r).lastCmd = s.lastCmd := rfl
@[simp] theorem State.endRead_lastState (r : ReadResult) : (s.endRead r).lastState = s.lastState := rfl
@[simp] theorem State.endRead_lastChk (r : ReadResult) : (s.endRead r).lastChk = s.lastChk := rfl
@[simp] theorem State.endRead_lastPlen (r : ReadResult) : (s.endRead r).lastPlen = s.lastPlen := rfl
@[simp] theorem State.endRead_src (r : ReadResult) : (s.endRead r).src = s.src := rfl
@[simp] theorem State.endRead_out (r : ReadResult) : (s.endRead r).out = s.out := rfl
@[simp] theorem State.endRead_inbox (r : ReadResult) : (s.endRead r).inbox = s.inbox := rfl
@[simp] theorem State.endRead_scan (r : ReadResult) : (s.endRead r).scan = s.scan := rfl

/-! ## accept -/

@[simp] theorem State.accept_cfg (f : Frame) : (s.accept f).cfg = s.cfg := rfl
@[simp] theorem State.accept_armed (f : Frame) : (s.accept f).armed = s.armed := rfl
@[simp] theorem State.accept_mode (f : Frame) : (s.accept f).mode = s.mode := rfl
@[simp] theorem State.accept_asm (f : Frame) : (s.accept f).asm = s.asm := rfl
@[simp] theorem State.accept_buf (f : Frame) : (s.accept f).buf = s.buf := rfl
@[simp] theorem State.accept_elapsed (f : Frame) : (s.accept f).elapsed = s.elapsed := rfl
@[simp] theorem State.accept_avgValid (f : Frame) : (s.accept f).avgValid = s.avgValid := rfl
@[simp] theorem State.accept_avg (f : Frame) : (s.accept f).avg = s.avg := rfl
@[simp] theorem State.accept_result (f : Frame) : (s.accept f).result = s.result := rfl
@[simp] theorem State.accept_mfCount (f : Frame) : (s.accept f).mfCount = s.mfCount := rfl
@[simp] theorem State.accept_mfLast (f : Frame) : (s.accept f).mfLast = s.mfLast := rfl
@[simp] theorem State.accept_frameCount (f : Frame) : (s.accept f).frameCount = sat 32 (s.frameCount.toNat + 1) := rfl
@[simp] theorem State.accept_lastAddr (f : Frame) : (s.accept f).lastAddr = f.addr := rfl
@[simp] theorem State.accept_lastCmd (f : Frame) : (s.accept f).lastCmd = f.cmd := rfl
@[simp] theorem State.accept_lastState (f : Frame) : (s.accept f).lastState = f.st := rfl
@[simp] theorem State.accept_lastChk (f : Frame) : (s.accept f).lastChk = f.chk := rfl
@[simp] theorem State.accept_lastPlen (f : Frame) : (s.accept f).lastPlen = plen16 f.payload.length := rfl
@[simp] theorem State.accept_src (f : Frame) : (s.accept f).src = s.src := rfl
@[simp] theorem State.accept_out (f : Frame) : (s.accept f).out = s.out := rfl
@[simp] theorem State.accept_inbox (f : Frame) : (s.accept f).inbox = s.inbox := rfl
@[simp] theorem State.accept_scan (f : Frame) : (s.accept f).scan = s.scan := rfl

/-! ## seedAvg -/

@[simp] theorem State.seedAvg_cfg (r : Record) : (s.seedAvg r).cfg = s.cfg := rfl
@[simp] theorem State.seedAvg_armed (r : Record) : (s.seedAvg r).armed = s.armed := rfl
@[simp] theorem State.seedAvg_mode (r : Record) : (s.seedAvg r).mode = s.mode := rfl
@[simp] theorem State.seedAvg_asm (r : Record) : (s.seedAvg r).asm = s.asm := rfl
@[simp] theorem State.seedAvg_buf (r : Record) : (s.seedAvg r).buf = s.buf := rfl
@[simp] theorem State.seedAvg_elapsed (r : Record) : (s.seedAvg r).elapsed = s.elapsed := rfl
@[simp] theorem State.seedAvg_avgValid (r : Record) : (s.seedAvg r).avgValid = true := rfl
@[simp] theorem State.seedAvg_avg (r : Record) : (s.seedAvg r).avg = seedLanes s.cfg.accFormat r := rfl
@[simp] theorem State.seedAvg_result (r : Record) : (s.seedAvg r).result = s.result := rfl
@[simp] theorem State.seedAvg_mfCount (r : Record) : (s.seedAvg r).mfCount = s.mfCount := rfl
@[simp] theorem State.seedAvg_mfLast (r : Record) : (s.seedAvg r).mfLast = s.mfLast := rfl
@[simp] theorem State.seedAvg_frameCount (r : Record) : (s.seedAvg r).frameCount = s.frameCount := rfl
@[simp] theorem State.seedAvg_lastAddr (r : Record) : (s.seedAvg r).lastAddr = s.lastAddr := rfl
@[simp] theorem State.seedAvg_lastCmd (r : Record) : (s.seedAvg r).lastCmd = s.lastCmd := rfl
@[simp] theorem State.seedAvg_lastState (r : Record) : (s.seedAvg r).lastState = s.lastState := rfl
@[simp] theorem State.seedAvg_lastChk (r : Record) : (s.seedAvg r).lastChk = s.lastChk := rfl
@[simp] theorem State.seedAvg_lastPlen (r : Record) : (s.seedAvg r).lastPlen = s.lastPlen := rfl
@[simp] theorem State.seedAvg_src (r : Record) : (s.seedAvg r).src = s.src := rfl
@[simp] theorem State.seedAvg_out (r : Record) : (s.seedAvg r).out = s.out := rfl
@[simp] theorem State.seedAvg_inbox (r : Record) : (s.seedAvg r).inbox = s.inbox := rfl
@[simp] theorem State.seedAvg_scan (r : Record) : (s.seedAvg r).scan = s.scan := rfl

/-! ## extendBurst -/

@[simp] theorem State.extendBurst_cfg (r : Record) : (s.extendBurst r).cfg = s.cfg := rfl
@[simp] theorem State.extendBurst_armed (r : Record) : (s.extendBurst r).armed = s.armed := rfl
@[simp] theorem State.extendBurst_mode (r : Record) : (s.extendBurst r).mode = s.mode := rfl
@[simp] theorem State.extendBurst_asm (r : Record) : (s.extendBurst r).asm = s.asm := rfl
@[simp] theorem State.extendBurst_buf (r : Record) : (s.extendBurst r).buf = s.buf := rfl
@[simp] theorem State.extendBurst_elapsed (r : Record) : (s.extendBurst r).elapsed = s.elapsed := rfl
@[simp] theorem State.extendBurst_avgValid (r : Record) : (s.extendBurst r).avgValid = s.avgValid := rfl
@[simp] theorem State.extendBurst_avg (r : Record) : (s.extendBurst r).avg = extendLanes s.avg r := rfl
@[simp] theorem State.extendBurst_result (r : Record) : (s.extendBurst r).result = s.result := rfl
@[simp] theorem State.extendBurst_mfCount (r : Record) : (s.extendBurst r).mfCount = s.mfCount := rfl
@[simp] theorem State.extendBurst_mfLast (r : Record) : (s.extendBurst r).mfLast = s.mfLast := rfl
@[simp] theorem State.extendBurst_frameCount (r : Record) : (s.extendBurst r).frameCount = s.frameCount := rfl
@[simp] theorem State.extendBurst_lastAddr (r : Record) : (s.extendBurst r).lastAddr = s.lastAddr := rfl
@[simp] theorem State.extendBurst_lastCmd (r : Record) : (s.extendBurst r).lastCmd = s.lastCmd := rfl
@[simp] theorem State.extendBurst_lastState (r : Record) : (s.extendBurst r).lastState = s.lastState := rfl
@[simp] theorem State.extendBurst_lastChk (r : Record) : (s.extendBurst r).lastChk = s.lastChk := rfl
@[simp] theorem State.extendBurst_lastPlen (r : Record) : (s.extendBurst r).lastPlen = s.lastPlen := rfl
@[simp] theorem State.extendBurst_src (r : Record) : (s.extendBurst r).src = s.src := rfl
@[simp] theorem State.extendBurst_out (r : Record) : (s.extendBurst r).out = s.out := rfl
@[simp] theorem State.extendBurst_inbox (r : Record) : (s.extendBurst r).inbox = s.inbox := rfl
@[simp] theorem State.extendBurst_scan (r : Record) : (s.extendBurst r).scan = s.scan := rfl

/-! ## resetRegisters -/

@[simp] theorem State.resetRegisters_cfg : (s.resetRegisters).cfg = s.cfg := rfl
@[simp] theorem State.resetRegisters_armed : (s.resetRegisters).armed = false := rfl
@[simp] theorem State.resetRegisters_mode : (s.resetRegisters).mode = .meas := rfl
@[simp] theorem State.resetRegisters_asm : (s.resetRegisters).asm = .idle := rfl
@[simp] theorem State.resetRegisters_buf : (s.resetRegisters).buf = [] := rfl
@[simp] theorem State.resetRegisters_elapsed : (s.resetRegisters).elapsed = 0 := rfl
@[simp] theorem State.resetRegisters_avgValid : (s.resetRegisters).avgValid = false := rfl
@[simp] theorem State.resetRegisters_avg : (s.resetRegisters).avg = Lanes.zero s.cfg.accFormat := rfl
@[simp] theorem State.resetRegisters_result : (s.resetRegisters).result = .none := rfl
@[simp] theorem State.resetRegisters_mfCount : (s.resetRegisters).mfCount = 0 := rfl
@[simp] theorem State.resetRegisters_mfLast : (s.resetRegisters).mfLast = none := rfl
@[simp] theorem State.resetRegisters_frameCount : (s.resetRegisters).frameCount = 0 := rfl
@[simp] theorem State.resetRegisters_lastAddr : (s.resetRegisters).lastAddr = 0 := rfl
@[simp] theorem State.resetRegisters_lastCmd : (s.resetRegisters).lastCmd = 0 := rfl
@[simp] theorem State.resetRegisters_lastState : (s.resetRegisters).lastState = 0 := rfl
@[simp] theorem State.resetRegisters_lastChk : (s.resetRegisters).lastChk = 0 := rfl
@[simp] theorem State.resetRegisters_lastPlen : (s.resetRegisters).lastPlen = 0 := rfl
@[simp] theorem State.resetRegisters_src : (s.resetRegisters).src = s.src := rfl
@[simp] theorem State.resetRegisters_out : (s.resetRegisters).out = s.out := rfl
@[simp] theorem State.resetRegisters_inbox : (s.resetRegisters).inbox = s.inbox := rfl
@[simp] theorem State.resetRegisters_scan : (s.resetRegisters).scan = s.scan := rfl

end Sys2Proof.Machine
end

