-- ==== Sys2Proof/Laws/Ops.lean ====
section
/-! SUPPORT. What each shared operation can do, said once: the conditional register operations, saturation, the codes. -/

namespace Sys2Proof.Machine

theorem sat_toNat (w v : Nat) : (sat w v).toNat = min v (2 ^ w - 1) := by
  have h : min v (2 ^ w - 1) < 2 ^ w := by
    have := Nat.two_pow_pos w
    omega
  simpa [sat] using Nat.mod_eq_of_lt h

/-- A saturating count never goes down. -/
theorem le_sat_succ (c : BitVec 32) : c.toNat ≤ (sat 32 (c.toNat + 1)).toNat := by
  rw [sat_toNat]
  have := c.isLt
  omega

/-- A count that has counted is not 0. -/
theorem sat_succ_ne_zero (c : BitVec 32) : sat 32 (c.toNat + 1) ≠ 0 := by
  intro h
  have h' := congrArg BitVec.toNat h
  rw [sat_toNat] at h'
  simp at h'

theorem plen16_toNat {n : Nat} (h : n < 2 ^ 16) : (plen16 n).toNat = n := by
  rw [plen16, if_pos h, BitVec.toNat_ofNat, Nat.mod_eq_of_lt h]

theorem State.startRead_of_armed {s : State} (m : Mode) (h : s.armed = true) : s.startRead m = s := by
  simp [State.startRead, h]

theorem State.startRead_of_unarmed {s : State} (m : Mode) (h : s.armed = false) :
    s.startRead m = { s with armed := true, mode := m, elapsed := 0, result := .none } := by
  simp [State.startRead, h]

theorem State.advance_of_armed {s : State} (n : Nat) (h : s.armed = true) :
    s.advance n = { s with elapsed := sat 32 (s.elapsed.toNat + n) } := by
  simp [State.advance, h]

theorem State.advance_of_unarmed {s : State} (n : Nat) (h : s.armed = false) : s.advance n = s := by
  simp [State.advance, h]

theorem State.ioFailure_of_armed {s : State} (h : s.armed = true) :
    s.ioFailure = { s with asm := .idle, buf := [], armed := false, result := .ioError, out := s.out ++ [.evt (.result .ioError)] } := by
  simp [State.ioFailure, h, State.closeFrame, State.endRead, State.emit]

theorem State.ioFailure_of_unarmed {s : State} (h : s.armed = false) : s.ioFailure = s := by
  simp [State.ioFailure, h]

theorem State.inRead_of_armed {s t : State} (h : s.armed = true) : s.inRead t = t := by
  simp [State.inRead, h]

theorem State.inRead_of_unarmed {s t : State} (h : s.armed = false) : s.inRead t = s := by
  simp [State.inRead, h]

theorem State.startsNewBurst_iff (s : State) :
    s.startsNewBurst = true ↔ s.avgValid = false ∨ s.cfg.thresholdTicks < s.elapsed.toNat := by
  simp [State.startsNewBurst]

theorem State.coreEnabled_iff (s : State) : s.coreEnabled = true ↔ s.armed = true ∧ s.src ≠ [] := by
  simp [State.coreEnabled]


end Sys2Proof.Machine
end

