-- ==== Sys2Proof/Laws/Codec.lean ====
section
/-! SUPPORT. What smoothing a record and decoding a payload can do, said once: which items they emit and which registers
they write. -/

namespace Sys2Proof.Machine

/-- The items a measurement record adds: the flushed average of a burst that ends, then Raw (R61, R212, R218). -/
def State.smoothItems (s : State) (r : Record) : List Item :=
  (if s.startsNewBurst && s.avgValid then [.avg s.avg] else []) ++ [.raw r]

/-- The lanes after a measurement record (R212, R213). -/
def State.smoothLanes (s : State) (r : Record) : Lanes :=
  if s.startsNewBurst then seedLanes s.cfg.accFormat r else extendLanes s.avg r

/-- The whole of `smooth`: it writes BurstState and the output list, nothing else. -/
theorem State.smooth_eq (s : State) (r : Record) :
    s.smooth r = { s with avgValid := true, avg := s.smoothLanes r, out := s.out ++ s.smoothItems r } := by
  unfold State.smooth State.smoothLanes State.smoothItems
  by_cases hn : s.startsNewBurst = true
  · cases ha : s.avgValid <;>
      simp [hn, ha, State.newBurst, State.flushAvg, State.seedAvg, State.emit]
  · have ha : s.avgValid = true := by
      by_contra h
      exact hn ((State.startsNewBurst_iff s).2 (.inl (by simpa using h)))
    simp [hn, ha, State.extendBurst, State.emit]

/-- What a decode writes besides `out`: BurstState, in MEAS mode only (R222). -/
structure DecodeEffect where
  avgValid : Bool
  avg : Lanes
  items : List Item
  code : ReadResult

/-- The record a measurement payload gives (R181, R184). -/
def measRecord (p : Bytes) : Record := if p.length = measPayloadLen then decode40 p else zeroRecord

/-- The items that come before those of the smoother (R184). -/
def measEvt (p : Bytes) : List Item :=
  if p.length = measPayloadLen then [] else [.evt (.result .payloadLengthMismatch)]

/-- The whole of a decode, by mode (R180 to R190). -/
def decodeEffect (s : State) (p : Bytes) : DecodeEffect :=
  match s.mode with
  | .meas =>
    ⟨true, s.smoothLanes (measRecord p), measEvt p ++ s.smoothItems (measRecord p),
      if p.length = measPayloadLen then .measOk else .payloadLengthMismatch⟩
  | .fw =>
    ⟨s.avgValid, s.avg, [if p.length = fwPayloadLen then .fw (fwValues p) else .evt (.result .fwLengthError)],
      if p.length = fwPayloadLen then .fwOk else .fwLengthError⟩
  | .serial =>
    ⟨s.avgValid, s.avg, [if p.all isAscii then .serial p else .evt (.result .encodingError)],
      if p.all isAscii then .serialOk else .encodingError⟩

/-- `decode_and_emit` writes BurstState and the output list and returns its code: nothing else. -/
theorem decodeAndEmit_eq (s : State) (p : Bytes) :
    decodeAndEmit s p =
      ({ s with avgValid := (decodeEffect s p).avgValid
                avg := (decodeEffect s p).avg
                out := s.out ++ (decodeEffect s p).items }, (decodeEffect s p).code) := by
  unfold decodeAndEmit decodeEffect
  cases hm : s.mode
  · simp only [decodeMeas, measRecord, measEvt]
    split <;> simp [hm, State.smooth_eq, State.emit, State.smoothLanes, State.smoothItems, State.startsNewBurst]
  · simp only [decodeFw]
    split <;> simp [hm, State.emit]
  · simp only [decodeSerial]
    split <;> simp [hm, State.emit]

/-- A decode's code is one of its mode's two (R136). -/
theorem decodeEffect_code (s : State) (p : Bytes) :
    (s.mode = .meas ∧ ((decodeEffect s p).code = .measOk ∨ (decodeEffect s p).code = .payloadLengthMismatch)) ∨
    (s.mode = .fw ∧ ((decodeEffect s p).code = .fwOk ∨ (decodeEffect s p).code = .fwLengthError)) ∨
    (s.mode = .serial ∧ ((decodeEffect s p).code = .serialOk ∨ (decodeEffect s p).code = .encodingError)) := by
  unfold decodeEffect
  cases hm : s.mode <;> simp only [] <;> split <;> simp

/-- The effect reads only the mode, the configuration's threshold and format, the timer and BurstState. -/
theorem decodeEffect_congr {s t : State} (p : Bytes) (hc : t.cfg = s.cfg) (hm : t.mode = s.mode)
    (he : t.elapsed = s.elapsed) (hv : t.avgValid = s.avgValid) (ha : t.avg = s.avg) :
    decodeEffect t p = decodeEffect s p := by
  unfold decodeEffect State.smoothLanes State.smoothItems State.startsNewBurst
  rw [hc, hm, he, hv, ha]

/-- The whole of an accepted frame (R135, R136, R166). -/
theorem State.finishFrame_eq (s : State) (f : Frame) :
    s.finishFrame f =
      { s with
        armed := false
        result := (decodeEffect s f.payload).code
        avgValid := (decodeEffect s f.payload).avgValid
        avg := (decodeEffect s f.payload).avg
        out := s.out ++ (decodeEffect s f.payload).items
        frameCount := sat 32 (s.frameCount.toNat + 1)
        lastAddr := f.addr
        lastCmd := f.cmd
        lastState := f.st
        lastChk := f.chk
        lastPlen := plen16 f.payload.length } := by
  have h : decodeEffect (s.accept f) f.payload = decodeEffect s f.payload := decodeEffect_congr _ rfl rfl rfl rfl rfl
  simp only [State.finishFrame, decodeAndEmit_eq, h]
  rfl

end Sys2Proof.Machine
end

