-- ==== Sys2Proof/Laws/Decode.lean ====
section
/-! SUPPORT. The event word as its two fields (R80), and what the event decoder reads from them, said once. -/

namespace Sys2Proof

theorem eventWord_toNat (op : BitVec 8) (x : BitVec 24) :
    (eventWord op x).toNat = op.toNat * 2 ^ 24 + x.toNat := by
  rw [eventWord, BitVec.toNat_append, ← Nat.shiftLeft_add_eq_or_of_lt x.isLt, Nat.shiftLeft_eq]

@[simp] theorem eventOp_eventWord (op : BitVec 8) (x : BitVec 24) : eventOp (eventWord op x) = op := by
  apply BitVec.eq_of_toNat_eq
  rw [eventOp, BitVec.extractLsb'_toNat, eventWord_toNat, Nat.shiftRight_eq_div_pow]
  have := op.isLt
  have := x.isLt
  omega

@[simp] theorem eventOperand_eventWord (op : BitVec 8) (x : BitVec 24) : eventOperand (eventWord op x) = x := by
  apply BitVec.eq_of_toNat_eq
  rw [eventOperand, BitVec.extractLsb'_toNat, eventWord_toNat, Nat.shiftRight_eq_div_pow]
  have := op.isLt
  have := x.isLt
  omega

/-- Every word is its class and its operand. -/
theorem eventWord_fields (w : EventWord) : eventWord (eventOp w) (eventOperand w) = w := by
  apply BitVec.eq_of_toNat_eq
  rw [eventWord_toNat, eventOp, eventOperand, BitVec.extractLsb'_toNat, BitVec.extractLsb'_toNat,
    Nat.shiftRight_eq_div_pow, Nat.shiftRight_eq_div_pow]
  have := w.isLt
  omega

/-- Bits 23:8 are zero exactly when the operand is a byte (R81). -/
theorem operand_high_zero_iff (x : BitVec 24) : x.extractLsb' 8 16 = 0 ↔ x.toNat < 2 ^ 8 := by
  rw [← BitVec.toNat_inj, BitVec.extractLsb'_toNat]
  simp [Nat.shiftRight_eq_div_pow]
  have := x.isLt
  omega

theorem rxByte_zeroExtend (b : Byte) : rxByte (b.zeroExtend 24) = b := by
  apply BitVec.eq_of_toNat_eq
  simp [rxByte]
  have := b.isLt
  omega

theorem zeroExtend_rxByte {x : BitVec 24} (h : x.toNat < 2 ^ 8) : (rxByte x).zeroExtend 24 = x := by
  apply BitVec.eq_of_toNat_eq
  simp [rxByte]
  omega

/-- The event decoder on a word given by its fields. -/
theorem decodeEvent_eventWord (op : BitVec 8) (x : BitVec 24) :
    decodeEvent (eventWord op x) =
      if op = 0x01 ∧ x.extractLsb' 8 16 = 0 then .rx (rxByte x)
      else if op = 0x02 ∧ x = 0 then .startMeas
      else if op = 0x02 ∧ x = 1 then .startFw
      else if op = 0x02 ∧ x = 2 then .startSerial
      else if op = 0x03 then .tick x
      else if op = 0x04 ∧ x = 0 then .ioError
      else if op = 0x05 ∧ x = 0 then .reset
      else .reserved op x := by
  simp only [decodeEvent, eventOp_eventWord, eventOperand_eventWord]

/-- An event word is read as a row of format E. -/
theorem decodeEvent_format (w : EventWord) : (decodeEvent w).format = .event := by
  simp only [decodeEvent]
  repeat' split
  all_goals rfl

/-- Masking the bits from k on keeps the part above them. -/
theorem and_high_bits {a b c k : Nat} (hb : b < 2 ^ k) : (2 ^ k * a + b) &&& (2 ^ k * c) = 2 ^ k * (a &&& c) := by
  apply Nat.eq_of_testBit_eq
  intro i
  rw [Nat.testBit_and, Nat.testBit_two_pow_mul_add _ hb, Nat.testBit_two_pow_mul, Nat.testBit_two_pow_mul,
    Nat.testBit_and]
  by_cases h : i < k
  · have : ¬ k ≤ i := by omega
    simp [h, this]
  · have : k ≤ i := by omega
    simp [h, this]

end Sys2Proof
end

