-- ==== Sys2Proof/Laws/Float.lean ====
section
/-! SUPPORT. What rounding, packing and unpacking answer, said once: the lemmas about the arithmetic cite these. -/

namespace Sys2Proof.Machine

theorem expOnes_lt (F : AccFormat) : expOnes F < 2 ^ expBits F := by cases F <;> decide

theorem bitLength_spec (n : Nat) : n < 2 ^ bitLength n ∧ (n ≠ 0 → 2 ^ (bitLength n - 1) ≤ n) := by
  unfold bitLength
  split
  next h => subst h; simp
  next h => exact ⟨Nat.lt_log2_self, fun _ => by simpa using Nat.log2_self_le h⟩

/-- Rounding answers the floor or one more: the floor below the half, one more above it, the even one at it. -/
theorem roundHalfEven_cases (n k : Nat) :
    (2 * (n % 2 ^ k) < 2 ^ k ∧ roundHalfEven n k = n / 2 ^ k) ∨
    (2 ^ k < 2 * (n % 2 ^ k) ∧ roundHalfEven n k = n / 2 ^ k + 1) ∨
    (2 * (n % 2 ^ k) = 2 ^ k ∧ roundHalfEven n k % 2 = 0 ∧
      (roundHalfEven n k = n / 2 ^ k ∨ roundHalfEven n k = n / 2 ^ k + 1)) := by
  unfold roundHalfEven
  simp only
  split
  next h => exact .inl ⟨h, rfl⟩
  split
  next h => exact .inr (.inl ⟨h, rfl⟩)
  split
  next h => exact .inr (.inr ⟨by omega, h, .inl rfl⟩)
  next h => exact .inr (.inr ⟨by omega, by omega, .inr rfl⟩)

/-- A subnormal magnitude is its own fraction field. -/
theorem packMag_of_lt {F : AccFormat} {c : Nat} (h : c < 2 ^ fracBits F) : packMag F c = c := by rw [packMag, if_pos h]

theorem log2_scaled {c j P : Nat} (h₁ : 2 ^ P ≤ c) (h₂ : c < 2 ^ (P + 1)) : Nat.log2 (c * 2 ^ j) = P + j := by
  have hc : c * 2 ^ j ≠ 0 := by
    have := Nat.two_pow_pos P
    have := Nat.two_pow_pos j
    exact Nat.mul_ne_zero (by omega) (by omega)
  rw [Nat.log2_eq_iff hc]
  constructor
  · rw [pow_add]; exact Nat.mul_le_mul_right _ h₁
  · rw [show P + j + 1 = (P + 1) + j by omega, pow_add]
    exact Nat.mul_lt_mul_of_pos_right h₂ (Nat.two_pow_pos j)

/-- A normal magnitude, a significand of full precision times a power of two, packs to its two fields. -/
theorem packMag_normal {F : AccFormat} {c j : Nat} (h₁ : 2 ^ fracBits F ≤ c) (h₂ : c < 2 ^ (fracBits F + 1)) :
    packMag F (c * 2 ^ j) = (j + 1) * 2 ^ fracBits F + (c - 2 ^ fracBits F) := by
  have h : ¬ c * 2 ^ j < 2 ^ fracBits F := by
    have : c ≤ c * 2 ^ j := Nat.le_mul_of_pos_right _ (Nat.two_pow_pos j)
    omega
  rw [packMag, if_neg h, log2_scaled h₁ h₂]
  simp

/-- A pattern made of its three fields, the exponent field not all ones, unpacks to the magnitude they stand for. -/
theorem unpack_fields (F : AccFormat) (neg : Bool) {e frac : Nat} (he : e < expOnes F) (hf : frac < 2 ^ fracBits F) :
    unpack F (signBit F neg + (e * 2 ^ fracBits F + frac)) =
      .fin neg (if e = 0 then frac else (2 ^ fracBits F + frac) * 2 ^ (e - 1)) := by
  have hE := expOnes_lt F
  have hlow : e * 2 ^ fracBits F + frac < 2 ^ (fracBits F + expBits F) := by
    rw [pow_add, Nat.mul_comm (2 ^ fracBits F)]
    have : (e + 1) * 2 ^ fracBits F ≤ 2 ^ expBits F * 2 ^ fracBits F := Nat.mul_le_mul_right _ (by omega)
    rw [Nat.add_mul] at this
    omega
  have hs : signBit F neg = 2 ^ (fracBits F + expBits F) * neg.toNat := by cases neg <;> simp [signBit]
  have ht : (signBit F neg + (e * 2 ^ fracBits F + frac)).testBit (fracBits F + expBits F) = neg := by
    rw [hs, Nat.testBit_two_pow_mul_add _ hlow]
    cases neg <;> simp
  have hfr : (signBit F neg + (e * 2 ^ fracBits F + frac)) % 2 ^ fracBits F = frac := by
    rw [hs, pow_add, Nat.mul_assoc, ← Nat.add_assoc, Nat.add_mod, Nat.add_mod (2 ^ fracBits F * _)]
    simp [Nat.mod_eq_of_lt hf]
  have hex : (signBit F neg + (e * 2 ^ fracBits F + frac)) / 2 ^ fracBits F % 2 ^ expBits F = e := by
    rw [hs, pow_add, Nat.mul_assoc, Nat.mul_comm e, ← Nat.add_assoc, ← Nat.mul_add,
      Nat.mul_add_div (Nat.two_pow_pos _), Nat.div_eq_of_lt hf, Nat.add_zero, Nat.mul_add_mod]
    exact Nat.mod_eq_of_lt (by omega)
  simp only [unpack, hfr, hex, ht]
  rw [if_neg (by omega)]
  split <;> rfl

/-- A finite datum's magnitude is a significand of the format's precision times a power of two. -/
theorem unpack_fin_form {F : AccFormat} {x : Nat} {neg : Bool} {m : Nat} (h : unpack F x = .fin neg m) :
    ∃ c j, c < 2 ^ (fracBits F + 1) ∧ j ≤ expOnes F - 2 ∧ m = c * 2 ^ j := by
  have hf := Nat.mod_lt x (Nat.two_pow_pos (fracBits F))
  have he := Nat.mod_lt (x / 2 ^ fracBits F) (Nat.two_pow_pos (expBits F))
  have hE : expOnes F + 1 = 2 ^ expBits F := by cases F <;> decide
  unfold unpack at h
  simp only at h
  split at h
  · split at h <;> simp at h
  split at h
  · simp at h
    exact ⟨m, 0, by rw [pow_succ]; omega, Nat.zero_le _, by simp⟩
  · simp at h
    exact ⟨_, _, by rw [pow_succ]; omega, by omega, h.2.symm⟩

end Sys2Proof.Machine
end

