-- ==== Sys2Proof/Laws/Interpreter.lean ====
section
/-! SUPPORT. The body as its fields, and what an accepted frame is like, said once. -/

namespace Sys2Proof.Machine

/-- The fields of a body given by its fields (R74, R162, R163). -/
theorem bodyFields_cons (addr cmd st chk : Byte) {p : Bytes} :
    bodyFields (addr :: cmd :: st :: (p ++ [chk])) = ⟨addr, cmd, st, p, chk⟩ := by
  have hl : (addr :: cmd :: st :: (p ++ [chk])).length = p.length + 4 := by simp
  have hc : byteAt (addr :: cmd :: st :: (p ++ [chk])) (p.length + 3) = chk := by simp [byteAt]
  have hp : slice (addr :: cmd :: st :: (p ++ [chk])) 3 (p.length + 2) = p := by simp [slice]
  simp only [bodyFields, hl]
  rw [show p.length + 4 - 1 = p.length + 3 by omega, show p.length + 4 - 2 = p.length + 2 by omega, hc, hp]
  rfl

/-- An accepted frame is the body's fields; its payload is not empty and four bytes shorter than the body (R162). -/
theorem interpret_ok {c : Config} {u : Bytes} {f : Frame} (h : interpret c u = .ok f) :
    f = bodyFields u ∧ f.payload.length + 4 = u.length ∧ 1 ≤ f.payload.length := by
  unfold interpret at h
  split at h
  · cases h
  split at h
  · cases h
  split at h
  · cases h
  next hl _ _ =>
    simp at h
    subst h
    simp [bodyFields, slice, minBody] at *
    omega

/-- A signed byte is in −128..127 (R14). -/
theorem int8_bounds (b : Byte) : -128 ≤ int8 b ∧ int8 b ≤ 127 := by
  have h₁ := BitVec.le_toInt b
  have h₂ := BitVec.toInt_lt (x := b)
  simp [int8] at *
  omega

end Sys2Proof.Machine
end

