-- ==== Sys2Proof/Laws/PerInstr.lean ====
section
/-! SUPPORT. Statements about every instruction as syntax, one lemma per constructor. -/

namespace Sys2Proof.Laws

/-- The word of an instruction's encoding. -/
def wordOfInstr (i : Instr) : Nat := (encode i).tableWord

/-- The opcode table's row of a mnemonic. -/
def rowOf (name : String) : Option OpcodeRow := opcodeTable.find? (fun r => r.mnemonic = name)

/-- The encoding of a well-formed instruction stands in its own row of spec/opcode_table.json: the row is of the
instruction's format, and its mask and pattern match the encoded word. -/
def EncodingInRow.Statement (i : Instr) : Prop :=
  i.wellFormed = true → ∃ r, rowOf i.mnemonic = some r ∧ r.format = i.format ∧ r.hits (wordOfInstr i) = true

/-- A word of one class with its operand bits masked off. -/
theorem eventWord_class_hits (op : BitVec 8) (n : BitVec 24) :
    (eventWord op n).toNat &&& 0xFF000000 = op.toNat * 2 ^ 24 := by
  have h := and_high_bits (a := op.toNat) (b := n.toNat) (c := 2 ^ 8 - 1) (k := 24) n.isLt
  rw [Nat.and_two_pow_sub_one_eq_mod, Nat.mod_eq_of_lt op.isLt] at h
  rw [eventWord_toNat, Nat.mul_comm op.toNat]
  exact h

/-- The word of a class with a byte operand, that byte masked off. -/
theorem eventWord_byte_hits (op : BitVec 8) (b : Byte) :
    (eventWord op (b.zeroExtend 24)).toNat &&& 0xFFFFFF00 = op.toNat * 2 ^ 24 := by
  have hop := op.isLt
  have hb := b.isLt
  have h := and_high_bits (a := op.toNat * 2 ^ 16) (b := b.toNat) (c := 2 ^ 24 - 1) (k := 8) hb
  rw [Nat.and_two_pow_sub_one_eq_mod, Nat.mod_eq_of_lt (by omega)] at h
  have hw : (eventWord op (b.zeroExtend 24)).toNat = 2 ^ 8 * (op.toNat * 2 ^ 16) + b.toNat := by
    rw [eventWord_toNat]
    simp
    omega
  rw [hw]
  exact h.trans (by omega)

theorem EncodingInRow.flag : EncodingInRow.Statement .flag := fun _ => ⟨_, rfl, rfl, by decide⟩

theorem EncodingInRow.data (b : Byte) : EncodingInRow.Statement (.data b) :=
  fun _ => ⟨_, rfl, rfl, by simp [OpcodeRow.hits]⟩

theorem EncodingInRow.escTrailing : EncodingInRow.Statement .escTrailing := fun _ => ⟨_, rfl, rfl, by decide⟩

theorem EncodingInRow.esc7E : EncodingInRow.Statement .esc7E := fun _ => ⟨_, rfl, rfl, by decide⟩

theorem EncodingInRow.esc7D : EncodingInRow.Statement .esc7D := fun _ => ⟨_, rfl, rfl, by decide⟩

theorem EncodingInRow.esc11 : EncodingInRow.Statement .esc11 := fun _ => ⟨_, rfl, rfl, by decide⟩

theorem EncodingInRow.esc13 : EncodingInRow.Statement .esc13 := fun _ => ⟨_, rfl, rfl, by decide⟩

theorem EncodingInRow.escInvalid (c : Byte) : EncodingInRow.Statement (.escInvalid c) := by
  refine fun _ => ⟨_, rfl, rfl, ?_⟩
  have h := and_high_bits (a := 0x7D) (b := c.toNat) (c := 0xFF) (k := 8) c.isLt
  simpa [OpcodeRow.hits, wordOfInstr, encode, Encoded.tableWord, escByte] using h

theorem EncodingInRow.literal (b : Byte) : EncodingInRow.Statement (.literal b) :=
  fun _ => ⟨_, rfl, rfl, by simp [OpcodeRow.hits]⟩

theorem EncodingInRow.rx (b : Byte) : EncodingInRow.Statement (.rx b) :=
  fun _ => ⟨_, rfl, rfl, decide_eq_true ((eventWord_byte_hits 0x01 b).trans rfl)⟩

theorem EncodingInRow.startMeas : EncodingInRow.Statement .startMeas := fun _ => ⟨_, rfl, rfl, by decide⟩

theorem EncodingInRow.startFw : EncodingInRow.Statement .startFw := fun _ => ⟨_, rfl, rfl, by decide⟩

theorem EncodingInRow.startSerial : EncodingInRow.Statement .startSerial := fun _ => ⟨_, rfl, rfl, by decide⟩

theorem EncodingInRow.tick (n : BitVec 24) : EncodingInRow.Statement (.tick n) :=
  fun _ => ⟨_, rfl, rfl, decide_eq_true ((eventWord_class_hits 0x03 n).trans rfl)⟩

theorem EncodingInRow.ioError : EncodingInRow.Statement .ioError := fun _ => ⟨_, rfl, rfl, by decide⟩

theorem EncodingInRow.reset : EncodingInRow.Statement .reset := fun _ => ⟨_, rfl, rfl, by decide⟩

theorem EncodingInRow.reserved (op : BitVec 8) (operand : BitVec 24) : EncodingInRow.Statement (.reserved op operand) :=
  fun _ => ⟨_, rfl, rfl, by simp [OpcodeRow.hits]⟩

end Sys2Proof.Laws
end

