-- ==== Sys2Proof/Laws/Unstuffer.lean ====
section
/-! SUPPORT. The scan of R101, said once as an equation on the string that is left: what one pass does at each unit, and
what the whole scan answers from a given point on. -/

namespace Sys2Proof.Machine

/-- What the rest of a scan answers, by recursion on what is left: `i` is the index of the first byte left and `u` the
output so far. -/
def scanFrom : Bytes → Nat → Bytes → Except UnstuffError Bytes
  | [], _, u => .ok u
  | x :: rest, i, u =>
    if x = escByte then
      match rest with
      | [] => .error ⟨.escTrailing, i⟩
      | c :: rest' =>
        if c = 0x5E then scanFrom rest' (i + 2) (u ++ [0x7E])
        else if c = 0x5D then scanFrom rest' (i + 2) (u ++ [0x7D])
        else if c = 0x31 then scanFrom rest' (i + 2) (u ++ [0x11])
        else if c = 0x33 then scanFrom rest' (i + 2) (u ++ [0x13])
        else .error ⟨.escInvalid, i⟩
    else scanFrom rest (i + 1) (u ++ [x])

theorem scanFrom_literal {x : Byte} (h : x ≠ escByte) (rest : Bytes) (i : Nat) (u : Bytes) :
    scanFrom (x :: rest) i u = scanFrom rest (i + 1) (u ++ [x]) := by
  cases rest <;> simp [scanFrom, h]

theorem scanFrom_escape (c : Byte) (rest : Bytes) (i : Nat) (u : Bytes) :
    scanFrom (escByte :: c :: rest) i u =
      if c = 0x5E then scanFrom rest (i + 2) (u ++ [0x7E])
      else if c = 0x5D then scanFrom rest (i + 2) (u ++ [0x7D])
      else if c = 0x31 then scanFrom rest (i + 2) (u ++ [0x11])
      else if c = 0x33 then scanFrom rest (i + 2) (u ++ [0x13])
      else .error ⟨.escInvalid, i⟩ := by
  simp [scanFrom]

@[simp] theorem scanFrom_trailing (i : Nat) (u : Bytes) :
    scanFrom [escByte] i u = .error ⟨.escTrailing, i⟩ := by simp [scanFrom]

theorem Scan.run_of_done {sc : Scan} (h : sc.done = true) : ∀ n, sc.run n = sc
  | 0 => rfl
  | n + 1 => by simp [Scan.run, Scan.step, h, Scan.run_of_done h n]

/-- Enough passes from any point of a scan answer what `scanFrom` does, and leave a call that has returned. -/
theorem Scan.run_spec : ∀ (n : Nat) (r : Bytes) (i : Nat) (u : Bytes), r.length ≤ n →
    (Scan.run n ⟨r, i, u, none⟩).answer = scanFrom r i u ∧ (Scan.run n ⟨r, i, u, none⟩).done = true
  | 0, r, i, u, h => by
    have : r = [] := by simpa using h
    subst this
    simp [Scan.run, Scan.answer, scanFrom, Scan.done]
  | n + 1, [], i, u, _ => by
    rw [Scan.run_of_done (by simp [Scan.done])]
    simp [Scan.answer, scanFrom, Scan.done]
  | n + 1, x :: rest, i, u, h => by
    have h' : rest.length ≤ n := by simpa using h
    by_cases hx : x = escByte
    · cases rest with
      | nil =>
        have : Scan.step ⟨[x], i, u, none⟩ = ⟨[x], i, u, some ⟨.escTrailing, i⟩⟩ := by
          simp [Scan.step, Scan.done, decodeUnit, hx, Scan.unit, Scan.escTrailing, Scan.fail]
        rw [Scan.run, this, Scan.run_of_done (by simp [Scan.done])]
        simp [Scan.answer, scanFrom, hx, Scan.done]
      | cons c rest' =>
        have h'' : rest'.length ≤ n := by simp at h'; omega
        have key : ∀ y : Byte, Scan.produce ⟨x :: c :: rest', i, u, none⟩ y 2 = ⟨rest', i + 2, u ++ [y], none⟩ :=
          fun y => by simp [Scan.produce]
        have step_eq : Scan.step ⟨x :: c :: rest', i, u, none⟩ = Scan.unit ⟨x :: c :: rest', i, u, none⟩ (escapeUnit c) := by
          simp [Scan.step, Scan.done, decodeUnit, hx]
        rw [Scan.run, step_eq]
        subst hx
        rw [scanFrom_escape, escapeUnit]
        split
        · simp only [Scan.unit, Scan.esc7E, key]; exact Scan.run_spec n rest' _ _ h''
        split
        · simp only [Scan.unit, Scan.esc7D, key]; exact Scan.run_spec n rest' _ _ h''
        split
        · simp only [Scan.unit, Scan.esc11, key]; exact Scan.run_spec n rest' _ _ h''
        split
        · simp only [Scan.unit, Scan.esc13, key]; exact Scan.run_spec n rest' _ _ h''
        · simp only [Scan.unit, Scan.escInvalid, Scan.fail]
          rw [Scan.run_of_done (by simp [Scan.done])]
          simp [Scan.answer, Scan.done]
    · have : Scan.step ⟨x :: rest, i, u, none⟩ = ⟨rest, i + 1, u ++ [x], none⟩ := by
        simp [Scan.step, Scan.done, decodeUnit, hx, Scan.unit, Scan.literal, Scan.produce]
      rw [Scan.run, this, scanFrom_literal hx]
      exact Scan.run_spec n rest _ _ h'

/-- `unstuff` as a recursion on the string: the lemma to cite instead of unfolding the scan. -/
theorem unstuff_eq (s : Bytes) : unstuff s = scanFrom s 0 [] := by
  simpa [unstuff, Scan.start] using (Scan.run_spec s.length s 0 [] (Nat.le_refl _)).1

/-- What a scan that answers has taken: nothing, a literal, or a pair; the rest is scanned with one byte more of output. -/
theorem scanFrom_ok_cases {r : Bytes} {i : Nat} {u v : Bytes} (h : scanFrom r i u = .ok v) :
    (r = [] ∧ v = u) ∨
    (∃ x rest, r = x :: rest ∧ x ≠ escByte ∧ scanFrom rest (i + 1) (u ++ [x]) = .ok v) ∨
    (∃ c y rest, r = escByte :: c :: rest ∧ isEscapeCode c = true ∧ scanFrom rest (i + 2) (u ++ [y]) = .ok v) := by
  match r with
  | [] => exact .inl ⟨rfl, by simpa [scanFrom] using h.symm⟩
  | x :: rest =>
    by_cases hx : x = escByte
    · subst hx
      match rest with
      | [] => simp at h
      | c :: rest' =>
        rw [scanFrom_escape] at h
        refine .inr (.inr ⟨c, ?_⟩)
        split at h
        next hc => exact ⟨_, rest', rfl, by simp [isEscapeCode, hc], h⟩
        split at h
        next hc => exact ⟨_, rest', rfl, by simp [isEscapeCode, hc], h⟩
        split at h
        next hc => exact ⟨_, rest', rfl, by simp [isEscapeCode, hc], h⟩
        split at h
        next hc => exact ⟨_, rest', rfl, by simp [isEscapeCode, hc], h⟩
        cases h
    · exact .inr (.inl ⟨x, rest, rfl, hx, by rwa [scanFrom_literal hx] at h⟩)

/-- The scan's output is never longer than what it has taken. -/
theorem scanFrom_ok_length : ∀ (n : Nat) (r : Bytes) (i : Nat) (u v : Bytes), r.length ≤ n → scanFrom r i u = .ok v →
    v.length ≤ u.length + r.length
  | 0, r, i, u, v, hn, h => by
    have : r = [] := by simpa using hn
    subst this
    simp [scanFrom] at h
    simp [h]
  | n + 1, r, i, u, v, hn, h => by
    obtain ⟨rfl, rfl⟩ | ⟨x, rest, rfl, -, h'⟩ | ⟨c, y, rest, rfl, -, h'⟩ := scanFrom_ok_cases h
    · simp
    · have := scanFrom_ok_length n rest _ _ _ (by simpa using hn) h'
      simp at this ⊢; omega
    · have := scanFrom_ok_length n rest _ _ _ (by simp at hn; omega) h'
      simp at this ⊢; omega

/-- Unstuffing never lengthens a body. -/
theorem unstuff_ok_length {s u : Bytes} (h : unstuff s = .ok u) : u.length ≤ s.length := by
  rw [unstuff_eq] at h
  simpa using scanFrom_ok_length s.length s 0 [] u (Nat.le_refl _) h

end Sys2Proof.Machine
end

