-- ==== Sys2Proof/Laws/Sync.lean ====
section
/-! SUPPORT. What one core step can do, said once, and the drain as a loop with an induction principle. -/

namespace Sys2Proof.Machine

@[simp] theorem decodeWire_flag : decodeWire flagByte = .flag := by simp [decodeWire]

theorem decodeWire_data {b : Byte} (h : b ≠ flagByte) : decodeWire b = .data b := by simp [decodeWire, h]

@[simp] theorem State.coreStep_flag (s : State) : s.coreStep flagByte = s.takeFlag := by
  simp [State.coreStep, State.takeWire]

theorem State.coreStep_data {b : Byte} (h : b ≠ flagByte) (s : State) : s.coreStep b = s.takeData b := by
  simp [State.coreStep, State.takeWire, decodeWire_data h]

/-- The two ways a completed body ends. -/
theorem State.completeBody_cases (s : State) (w : Bytes) :
    (∃ m, s.completeBody w = s.raiseMalformed m) ∨
    (∃ u f, unstuff w = .ok u ∧ interpret s.cfg u = .ok f ∧ s.completeBody w = s.finishFrame f) := by
  unfold State.completeBody
  cases hu : unstuff w with
  | error e => exact .inl ⟨_, rfl⟩
  | ok u =>
    simp only
    cases hi : interpret s.cfg u with
    | error m => exact .inl ⟨_, rfl⟩
    | ok f => exact .inr ⟨u, f, rfl, hi, rfl⟩

/-- Everything FLAG can do in a core step (R131, R132, R135). -/
theorem State.takeFlag_cases (s : State) :
    (s.asm = .idle ∧ s.takeFlag = s.openFrame) ∨
    (s.asm = .collecting ∧ ∃ m, s.takeFlag = s.closeFrame.raiseMalformed m) ∨
    (s.asm = .collecting ∧ ∃ u f, unstuff s.buf = .ok u ∧ interpret s.cfg u = .ok f ∧
      s.takeFlag = s.closeFrame.finishFrame f) := by
  cases h : s.asm with
  | idle => exact .inl ⟨rfl, by simp [State.takeFlag, h]⟩
  | collecting =>
    have e : s.takeFlag = s.closeFrame.completeBody s.buf := by simp [State.takeFlag, h, State.complete]
    obtain ⟨m, hm⟩ | ⟨u, f, hu, hi, hf⟩ := State.completeBody_cases s.closeFrame s.buf
    · exact .inr (.inl ⟨rfl, m, by rw [e, hm]⟩)
    · exact .inr (.inr ⟨rfl, u, f, hu, hi, by rw [e, hf]⟩)

/-- Everything DATA can do in a core step (R133, R134, R137). -/
theorem State.takeData_cases (s : State) (b : Byte) :
    (s.asm = .idle ∧ s.takeData b = s) ∨
    (s.asm = .collecting ∧ s.buf.length < s.cfg.maxCollect ∧ s.takeData b = s.memWrite b) ∨
    (s.asm = .collecting ∧ s.cfg.maxCollect ≤ s.buf.length ∧
      s.takeData b = s.closeFrame.raiseMalformed .overflow) := by
  cases h : s.asm with
  | idle => exact .inl ⟨rfl, by simp [State.takeData, h]⟩
  | collecting =>
    by_cases hl : s.buf.length < s.cfg.maxCollect
    · exact .inr (.inl ⟨rfl, hl, by simp [State.takeData, h, hl]⟩)
    · exact .inr (.inr ⟨rfl, by omega, by simp [State.takeData, h, hl]⟩)

/-- Everything one core step can do. -/
theorem State.coreStep_cases (s : State) (b : Byte) :
    (s.coreStep b = s) ∨
    (b = flagByte ∧ s.asm = .idle ∧ s.coreStep b = s.openFrame) ∨
    (b ≠ flagByte ∧ s.asm = .collecting ∧ s.buf.length < s.cfg.maxCollect ∧ s.coreStep b = s.memWrite b) ∨
    (s.asm = .collecting ∧ ∃ m, s.coreStep b = s.closeFrame.raiseMalformed m) ∨
    (s.asm = .collecting ∧ ∃ u f, unstuff s.buf = .ok u ∧ interpret s.cfg u = .ok f ∧
      s.coreStep b = s.closeFrame.finishFrame f) := by
  by_cases hb : b = flagByte
  · subst hb
    rw [State.coreStep_flag]
    obtain h | ⟨h, m, e⟩ | h := State.takeFlag_cases s
    · exact .inr (.inl ⟨rfl, h⟩)
    · exact .inr (.inr (.inr (.inl ⟨h, m, e⟩)))
    · exact .inr (.inr (.inr (.inr h)))
  · rw [State.coreStep_data hb]
    obtain ⟨-, h⟩ | ⟨h, hl, e⟩ | ⟨h, -, e⟩ := State.takeData_cases s b
    · exact .inl h
    · exact .inr (.inr (.inl ⟨hb, h, hl, e⟩))
    · exact .inr (.inr (.inr (.inl ⟨h, _, e⟩)))

/-- What no core step touches. -/
structure State.SameByCore (s t : State) : Prop where
  cfg : t.cfg = s.cfg
  mode : t.mode = s.mode
  elapsed : t.elapsed = s.elapsed
  src : t.src = s.src
  inbox : t.inbox = s.inbox
  scan : t.scan = s.scan

theorem State.coreStep_same (s : State) (b : Byte) : s.SameByCore (s.coreStep b) := by
  obtain e | ⟨-, -, e⟩ | ⟨-, -, -, e⟩ | ⟨-, m, e⟩ | ⟨-, u, f, -, -, e⟩ := State.coreStep_cases s b <;> rw [e]
  · exact ⟨rfl, rfl, rfl, rfl, rfl, rfl⟩
  · exact ⟨rfl, rfl, rfl, rfl, rfl, rfl⟩
  · exact ⟨rfl, rfl, rfl, rfl, rfl, rfl⟩
  · exact ⟨rfl, rfl, rfl, rfl, rfl, rfl⟩
  · rw [State.finishFrame_eq]; exact ⟨rfl, rfl, rfl, rfl, rfl, rfl⟩

/-- A core step only adds to the output list (R35). -/
theorem State.coreStep_out (s : State) (b : Byte) : ∃ new, (s.coreStep b).out = s.out ++ new := by
  obtain e | ⟨-, -, e⟩ | ⟨-, -, -, e⟩ | ⟨-, m, e⟩ | ⟨-, u, f, -, -, e⟩ := State.coreStep_cases s b <;> rw [e]
  · exact ⟨[], by simp⟩
  · exact ⟨[], by simp⟩
  · exact ⟨[], by simp⟩
  · exact ⟨_, rfl⟩
  · rw [State.finishFrame_eq]; exact ⟨_, rfl⟩

/-! ## The drain -/

theorem State.drain_of_unarmed {s : State} (h : s.armed = false) : s.drain = s := by
  unfold State.drain
  cases s.src <;> simp [drainBytes, h]

theorem State.drain_of_empty {s : State} (h : s.src = []) : s.drain = s := by
  simp [State.drain, h, drainBytes]

/-- One round of the loop of R250. -/
theorem State.drain_cons {s : State} {b : Byte} {bs : Bytes} (ha : s.armed = true) (hs : s.src = b :: bs) :
    s.drain = ({ s with src := bs }.coreStep b).drain := by
  have e : ({ s with src := bs }.coreStep b).src = bs := (State.coreStep_same _ b).src
  rw [State.drain, hs, State.drain, e]
  simp [drainBytes, ha]

/-- What every core step keeps, the drain keeps. -/
theorem State.drain_induction {P : State → Prop}
    (keep : ∀ (s : State) (b : Byte) (bs : Bytes), P s → s.armed = true → s.src = b :: bs →
      P ({ s with src := bs }.coreStep b)) : ∀ (s : State), P s → P s.drain := by
  suffices h : ∀ (l : Bytes) (s : State), s.src = l → P s → P s.drain from fun s => h s.src s rfl
  intro l
  induction l with
  | nil => intro s hs hp; rwa [State.drain_of_empty hs]
  | cons b bs ih =>
    intro s hs hp
    cases ha : s.armed with
    | false => rwa [State.drain_of_unarmed ha]
    | true =>
      rw [State.drain_cons ha hs]
      exact ih _ (State.coreStep_same _ b).src (keep s b bs hp ha hs)

/-- What no drain touches, and that it only adds to the output list. -/
theorem State.drain_same (s : State) :
    s.drain.cfg = s.cfg ∧ s.drain.mode = s.mode ∧ s.drain.elapsed = s.elapsed ∧ s.drain.inbox = s.inbox ∧
      s.drain.scan = s.scan ∧ ∃ new, s.drain.out = s.out ++ new := by
  refine State.drain_induction (P := fun t => t.cfg = s.cfg ∧ t.mode = s.mode ∧ t.elapsed = s.elapsed ∧
    t.inbox = s.inbox ∧ t.scan = s.scan ∧ ∃ new, t.out = s.out ++ new) ?_ s (by simp)
  rintro t b bs ⟨h₁, h₂, h₃, h₄, h₅, new, h₆⟩ - -
  have h := State.coreStep_same { t with src := bs } b
  obtain ⟨more, h₇⟩ := State.coreStep_out { t with src := bs } b
  refine ⟨h.cfg.trans h₁, h.mode.trans h₂, h.elapsed.trans h₃, h.inbox.trans h₄, h.scan.trans h₅, new ++ more, ?_⟩
  rw [h₇]
  simp [h₆]

/-- After a drain no core step is enabled (R250). -/
theorem State.drain_quiescent : ∀ (s : State), s.drain.armed = true → s.drain.src = [] := by
  suffices h : ∀ (l : Bytes) (s : State), s.src = l → s.drain.armed = true → s.drain.src = [] from
    fun s => h s.src s rfl
  intro l
  induction l with
  | nil => intro s hs _; rwa [State.drain_of_empty hs]
  | cons b bs ih =>
    intro s hs h
    cases ha : s.armed with
    | false => rw [State.drain_of_unarmed ha, ha] at h; cases h
    | true =>
      rw [State.drain_cons ha hs] at h ⊢
      exact ih _ (State.coreStep_same _ b).src h

end Sys2Proof.Machine
end

