-- ==== Sys2Proof/Laws/Step.lean ====
section
/-! SUPPORT. What exec and step can do, said once. -/

namespace Sys2Proof.Machine

/-- The state after an instruction's own effect: every meaning answers a next state. -/
def execState : Instr → State → State
  | .flag, s => s.inRead s.takeFlag
  | .data b, s => s.inRead (s.takeData b)
  | .escTrailing, s => s.onScan Scan.escTrailing
  | .esc7E, s => s.onScan Scan.esc7E
  | .esc7D, s => s.onScan Scan.esc7D
  | .esc11, s => s.onScan Scan.esc11
  | .esc13, s => s.onScan Scan.esc13
  | .escInvalid c, s => s.onScan (Scan.escInvalid c)
  | .literal b, s => s.onScan (Scan.literal b)
  | .rx b, s => s.deliver b
  | .startMeas, s => s.startRead .meas
  | .startFw, s => s.startRead .fw
  | .startSerial, s => s.startRead .serial
  | .tick n, s => s.advance n.toNat
  | .ioError, s => s.ioFailure
  | .reset, s => s.resetRegisters
  | .reserved _ _, s => s

theorem exec_eq (i : Instr) (s : State) : exec i s = .next (execState i s) := by cases i <;> rfl

theorem exec_next_iff {i : Instr} {s t : State} : exec i s = .next t ↔ execState i s = t := by
  rw [exec_eq]
  exact ⟨fun h => by injection h, fun h => by rw [h]⟩

/-- What a body unit's meaning changes: the standalone call, nothing else. -/
theorem State.onScan_eq (s : State) (f : Scan → Scan) : ∃ sc, s.onScan f = { s with scan := sc } := by
  unfold State.onScan
  split
  · split
    · exact ⟨s.scan, rfl⟩
    · exact ⟨_, rfl⟩
  · exact ⟨s.scan, rfl⟩

theorem State.onScan_of_open {s : State} {sc : Scan} (h : s.scan = some sc) (hd : sc.done = false) (f : Scan → Scan) :
    s.onScan f = { s with scan := some (f sc) } := by
  simp [State.onScan, h, hd]

/-- Outside an open call a body unit's meaning does nothing (DESIGN CHOICE, log entry 6). -/
theorem State.onScan_of_returned {s : State} (h : ∀ sc, s.scan = some sc → sc.done = true) (f : Scan → Scan) :
    s.onScan f = s := by
  unfold State.onScan
  split
  · next sc hs => simp [h sc hs]
  · rfl

theorem apply_eq (s : State) (w : EventWord) : apply s w = .next (execState (decodeEvent w) s).drain := by
  rw [apply, exec_eq]; rfl

theorem step_of_event {s : State} {w : EventWord} {ws : List EventWord} (h : s.inbox = w :: ws) :
    step s = .next (execState (decodeEvent w) { s with inbox := ws }).drain := by
  simp [step, fetch, h, exec_eq, drainAfter]

theorem step_of_wire {s : State} {b : Byte} {bs : Bytes} (hi : s.inbox = []) (ha : s.armed = true)
    (hs : s.src = b :: bs) : step s = .next ({ s with src := bs }.coreStep b) := by
  have : step s = exec (decodeWire b) { s with src := bs } := by simp [step, fetch, hi, ha, hs]
  rw [this, exec_eq]
  by_cases hb : b = flagByte
  · subst hb; simp [execState, State.inRead, ha]
  · simp [State.coreStep_data hb, decodeWire_data hb, execState, State.inRead, ha]

theorem fetch_of_unit {s : State} (hi : s.inbox = []) (hc : s.coreEnabled = false) :
    fetch s = match s.nextUnit with | some i => .unit i s | none => .waiting := by
  unfold fetch
  simp only [hi]
  cases hs : s.src with
  | nil => rfl
  | cons b bs =>
    have ha : s.armed = false := by
      cases h : s.armed with
      | false => rfl
      | true => simp [State.coreEnabled, h, hs] at hc
    simp only [ha]
    cases s.nextUnit <;> rfl

/-- Everything one step can do: an event and its drain, one core step, one unit of a standalone call, or nothing. -/
theorem step_cases (s : State) :
    (∃ w ws, s.inbox = w :: ws ∧ step s = .next (execState (decodeEvent w) { s with inbox := ws }).drain) ∨
    (∃ b bs, s.inbox = [] ∧ s.armed = true ∧ s.src = b :: bs ∧ step s = .next ({ s with src := bs }.coreStep b)) ∨
    (s.inbox = [] ∧ s.coreEnabled = false ∧ ∃ i, s.nextUnit = some i ∧ step s = .next (execState i s)) ∨
    (s.inbox = [] ∧ s.coreEnabled = false ∧ s.nextUnit = none ∧ step s = .next s) := by
  by_cases hi : s.inbox = []
  case neg =>
    obtain ⟨w, ws, hw⟩ := List.exists_cons_of_ne_nil hi
    exact .inl ⟨w, ws, hw, step_of_event hw⟩
  cases hc : s.coreEnabled with
  | true =>
    obtain ⟨ha, hs⟩ := (State.coreEnabled_iff s).1 hc
    obtain ⟨b, bs, hs⟩ := List.exists_cons_of_ne_nil hs
    exact .inr (.inl ⟨b, bs, hi, ha, hs, step_of_wire hi ha hs⟩)
  | false =>
    have hf := fetch_of_unit hi hc
    cases hu : s.nextUnit with
    | none => exact .inr (.inr (.inr ⟨hi, rfl, rfl, by simp [step, hf, hu]⟩))
    | some i => exact .inr (.inr (.inl ⟨hi, rfl, i, rfl, by simp [step, hf, hu, exec_eq]⟩))

/-- The unit a standalone call stands at is a row of format B. -/
theorem State.nextUnit_format {s : State} {i : Instr} (h : s.nextUnit = some i) : i.format = .body := by
  unfold State.nextUnit at h
  split at h
  · split at h
    · cases h
    · next sc _ _ =>
      cases hr : sc.rest with
      | nil => simp [hr, decodeUnit, Except.toOption] at h
      | cons x rest =>
        by_cases hx : x = escByte
        · cases rest with
          | nil => simp [hr, decodeUnit, hx, Except.toOption] at h; subst h; rfl
          | cons c rest' =>
            simp [hr, decodeUnit, hx, Except.toOption] at h
            subst h
            unfold escapeUnit
            repeat' split
            all_goals rfl
        · simp [hr, decodeUnit, hx, Except.toOption] at h; subst h; rfl
  · cases h

/-- What a row of format B does: it writes the standalone call, nothing else. -/
theorem execState_body {i : Instr} (h : i.format = .body) (s : State) : ∃ sc, execState i s = { s with scan := sc } := by
  cases i <;> first | exact State.onScan_eq s _ | cases h

/-- What no event's own action touches, and that it only adds to the output list. -/
theorem execState_event {i : Instr} (h : i.format = .event) (s : State) :
    (execState i s).cfg = s.cfg ∧ (execState i s).inbox = s.inbox ∧ (execState i s).scan = s.scan ∧
      ∃ new, (execState i s).out = s.out ++ new := by
  cases i <;> try cases h
  all_goals simp only [execState]
  all_goals first
    | simp [State.resetRegisters]
    | (cases ha : s.armed <;> simp [State.startRead, ha])
    | (cases ha : s.armed <;> simp [State.advance, ha])
    | (cases ha : s.armed <;> simp [State.ioFailure, ha])

/-- One step of the host's run. -/
theorem core_run_succ {s t : State} (n : Nat) (h : step s = .next t) :
    Host.Core.run Sys2Proof.core (n + 1) s = Host.Core.run Sys2Proof.core n t := by
  have : Sys2Proof.core.step s = .next t := h
  simp only [Host.Core.run, this]

/-- A waiting state waits for ever. -/
theorem core_run_of_waiting {s : State} (h : step s = .next s) : ∀ n, Host.Core.run Sys2Proof.core n s = .next s
  | 0 => rfl
  | n + 1 => by rw [core_run_succ n h]; exact core_run_of_waiting h n

end Sys2Proof.Machine
end

