-- ==== Sys2Proof/Tests/Slice0.lean ====
section
/-! SUPPORT. The model's own tests. Expected values are the spec's: its encodings (30_encoding.md) and its vectors
(95_test_vectors.md, named in each comment). After them, for every statement with hypotheses, a state that meets them. -/

namespace Sys2Proof.Tests

open Sys2Proof Sys2Proof.Machine

set_option Elab.async false

/-! ## WellFormed: an ill-formed term for each check -/

theorem test_wf_data_is_not_flag : (Instr.data 0x7E).wellFormed = false := by decide
theorem test_wf_literal_is_not_escape : (Instr.literal 0x7D).wellFormed = false := by decide
theorem test_wf_escInvalid_code_outside_table :
    ([0x5E, 0x5D, 0x31, 0x33].map fun c => (Instr.escInvalid c).wellFormed) = [false, false, false, false] := by decide
theorem test_wf_reserved_matches_no_row :
    [Instr.reserved 0x01 0xFF, .reserved 0x02 2, .reserved 0x03 7, .reserved 0x04 0, .reserved 0x05 0].map
      Instr.wellFormed = [false, false, false, false, false] := by decide
theorem test_wf_accepts_boundaries :
    [Instr.data 0x7D, .literal 0x7E, .escInvalid 0x7D, .reserved 0x01 0x100, .reserved 0x02 3, .reserved 0x04 1,
      .reserved 0x06 0, .tick 0xFFFFFF].all Instr.wellFormed = true := by decide

/-! ## Decode: words written out from R71 to R73 and R81 to R87 -/

theorem test_decode_flag : decodeTableWord 8 0b01111110 = some .flag := by decide
theorem test_decode_data : decodeTableWord 8 0b01000001 = some (.data 0x41) := by decide
theorem test_decode_data_7D_on_the_wire : decode (.wire 0x7D) = .ok (.data 0x7D) := by decide
theorem test_decode_escTrailing : decodeTableWord 8 0b01111101 = some .escTrailing := by decide
theorem test_decode_esc7E : decodeTableWord 16 0b0111110101011110 = some .esc7E := by decide
theorem test_decode_esc7D : decodeTableWord 16 0b0111110101011101 = some .esc7D := by decide
theorem test_decode_esc11 : decodeTableWord 16 0b0111110100110001 = some .esc11 := by decide
theorem test_decode_esc13 : decodeTableWord 16 0b0111110100110011 = some .esc13 := by decide
theorem test_decode_escInvalid : decodeTableWord 16 0b0111110101111110 = some (.escInvalid 0x7E) := by decide
theorem test_decode_literal : decode (.body [0b00010001]) = .ok (.literal 0x11) := by decide
theorem test_decode_two_literals_refused : decode (.body [0x41, 0x42]) = .error .notOneUnit := by decide
theorem test_decode_no_byte_refused : decode (.body []) = .error .noByte := by decide
theorem test_decode_rx : decodeTableWord 32 0x010000A5 = some (.rx 0xA5) := by decide
theorem test_decode_startMeas : decodeTableWord 32 0x02000000 = some .startMeas := by decide
theorem test_decode_startFw : decodeTableWord 32 0x02000001 = some .startFw := by decide
theorem test_decode_startSerial : decodeTableWord 32 0x02000002 = some .startSerial := by decide
theorem test_decode_tick : decodeTableWord 32 0x03FFFFFF = some (.tick 0xFFFFFF) := by decide
theorem test_decode_ioError : decodeTableWord 32 0x04000000 = some .ioError := by decide
theorem test_decode_reset : decodeTableWord 32 0x05000000 = some .reset := by decide
/-- The five words of V-S19. -/
theorem test_decode_reserved :
    [0x00000000, 0x02000003, 0x01000100, 0x04000001, 0xFF000000].map (decodeTableWord 32) =
      [some (.reserved 0x00 0), some (.reserved 0x02 3), some (.reserved 0x01 0x100), some (.reserved 0x04 1),
        some (.reserved 0xFF 0)] := by decide
theorem test_decode_refuses_other_widths :
    decodeTableWord 24 0 = none ∧ decodeTableWord 8 0x100 = none ∧ decodeTableWord 0 0 = none := by decide

/-! ## Small states -/

/-- MAX_COLLECT = 88, the least that R7 allows. -/
def cfg88 : Config := { Config.default with maxCollect := 88 }

/-- A read in progress in IDLE. -/
def reading (m : Mode) : State := { State.powerOn cfg88 with armed := true, mode := m }

/-- A read with a frame being collected. -/
def collecting (m : Mode) (buf : Bytes) : State := { reading m with asm := .collecting, buf := buf }

/-- A standalone call of the unstuffer at its beginning. -/
def calling (s : Bytes) : State := { State.powerOn cfg88 with scan := some (Scan.start s) }

/-- The next state, which every meaning answers. -/
def next : Host.Outcome State Fault Refusal → State
  | .next s => s
  | .fault r => nomatch r
  | .refused _ => State.reset

/-- The record with the same lane everywhere: `[x]` in 95_test_vectors.md. -/
def all10 (x : F32) : Record := Fields.const x

/-- A read of mode MEAS that has a running average. -/
def averaging (elapsed : BitVec 32) (a : F32) (buf : Bytes) : State :=
  { collecting .meas buf with avgValid := true, avg := .b32 (all10 a), elapsed := elapsed }

/-- The stuffed body of a measurement frame of ten lanes 2.0. -/
def body2 : Bytes := [0x00, 0x03, 0x00] ++ measPayload (all10 0x40000000) ++ [0x7B]

/-! ## One step of each instruction -/

/-- R131. -/
theorem test_flag_opens : next (exec .flag (reading .fw)) = collecting .fw [] := by decide +kernel
/-- V-I1: acceptance and FW_LENGTH_ERROR. -/
theorem test_flag_completes :
    let t := next (exec .flag (collecting .fw [0x00, 0x03, 0x00, 0x01, 0xFB]))
    t.out = [.evt (.result .fwLengthError)] ∧ t.armed = false ∧ t.frameCount = 1 ∧ t.lastCmd = 3 ∧ t.lastChk = 0xFB ∧
      t.lastPlen = 1 ∧ t.result.code = 0x31 ∧ t.asm = .idle := by decide +kernel
/-- R133. -/
theorem test_data_collects : (next (exec (.data 0x7D) (collecting .fw [0x00]))).buf = [0x00, 0x7D] := by decide +kernel
/-- V-S8: byte 89 raises OVERFLOW. -/
theorem test_data_overflows :
    let t := next (exec (.data 0x00) (collecting .meas (List.replicate 88 0x00)))
    t.out = [.evt (.malformed .overflow)] ∧ t.armed = true ∧ t.asm = .idle ∧ t.mfCount = 1 ∧ t.buf = [] := by
  decide +kernel
/-- V-U8. -/
theorem test_escTrailing :
    (next (step { calling [] with scan := some ⟨[0x7D], 1, [0x01], none⟩ })).scan.map Scan.answer =
      some (.error ⟨.escTrailing, 1⟩) := by decide +kernel
/-- V-U3. -/
theorem test_esc7E : (next (step (calling [0x7D, 0x5E]))).scan.map Scan.answer = some (.ok [0x7E]) := by decide +kernel
/-- V-U14: no byte produced is scanned again. -/
theorem test_esc7D :
    (next (step (calling [0x7D, 0x5D, 0x5E]))).scan = some ⟨[0x5E], 2, [0x7D], none⟩ := by decide +kernel
/-- V-U5. -/
theorem test_esc11 : (next (step (calling [0x7D, 0x31]))).scan.map Scan.answer = some (.ok [0x11]) := by decide +kernel
/-- V-U6. -/
theorem test_esc13 : (next (step (calling [0x7D, 0x33]))).scan.map Scan.answer = some (.ok [0x13]) := by decide +kernel
/-- V-U13: the first error ends the call. -/
theorem test_escInvalid :
    (next (step (calling [0x7D, 0x00, 0x7D]))).scan.map Scan.answer = some (.error ⟨.escInvalid, 0⟩) := by decide +kernel
/-- V-U17. -/
theorem test_literal : (next (step (calling [0x11, 0x13]))).scan = some ⟨[0x13], 1, [0x11], none⟩ := by decide +kernel
/-- V-S2: with no read armed the byte stays in the source. -/
theorem test_rx_waits :
    let t := next (step { State.powerOn cfg88 with src := [0x7E], inbox := [0x01000000] })
    t.src = [0x7E, 0x00] ∧ t.armed = false ∧ t.inbox = [] := by decide +kernel
/-- V-S4, its last event: the flag is consumed and the empty body is SHORT. -/
theorem test_rx_drains :
    let t := next (step { collecting .meas [] with inbox := [0x0100007E] })
    t.src = [] ∧ t.out = [.evt (.malformed .short)] ∧ t.mfCount = 1 ∧ t.armed = true ∧ t.asm = .idle := by decide +kernel
/-- R244: a READ clears the timer and the result. -/
theorem test_startMeas :
    next (exec .startMeas { State.powerOn cfg88 with elapsed := 9, result := .ioError }) = reading .meas := by
  decide +kernel
/-- V-S20, its last event: the waiting bytes are drained in the same step. -/
theorem test_startMeas_drains :
    (next (step { State.powerOn cfg88 with src := [0x55, 0x7E, 0x7E, 0x7E], inbox := [0x02000000] })).out =
      [.evt (.malformed .short)] := by decide +kernel
theorem test_startFw : next (exec .startFw (State.powerOn cfg88)) = reading .fw := by decide +kernel
/-- V-S12: ignored while a read is armed. -/
theorem test_startSerial_ignored : next (exec .startSerial (reading .fw)) = reading .fw := by decide +kernel
theorem test_startSerial : next (exec .startSerial (State.powerOn cfg88)) = reading .serial := by decide +kernel
/-- V-S14, its last event: 256 · 16777215 + 16777215 saturates. -/
theorem test_tick_saturates :
    (next (exec (.tick 0xFFFFFF) { reading .meas with elapsed := 4294967040 })).elapsed = 4294967295 := by decide +kernel
/-- V-S13: a TICK with no read armed does not count. -/
theorem test_tick_unarmed : next (exec (.tick 100) (State.powerOn cfg88)) = State.powerOn cfg88 := by decide +kernel
/-- V-S17, its last event. -/
theorem test_ioError :
    let t := next (exec .ioError (collecting .meas [0x00, 0x03]))
    t.armed = false ∧ t.result.code = 0x40 ∧ t.asm = .idle ∧ t.buf = [] ∧ t.out = [.evt (.result .ioError)] := by
  decide +kernel
/-- V-S16. -/
theorem test_ioError_unarmed : next (exec .ioError (State.powerOn cfg88)) = State.powerOn cfg88 := by decide +kernel
/-- V-S21: `src` and `out` keep their contents. -/
theorem test_reset :
    next (exec .reset { averaging 5 0x3F800000 [0x00] with src := [0x55], out := [.evt (.result .ioError)], mfCount := 3 }) =
      { State.powerOn cfg88 with src := [0x55], out := [.evt (.result .ioError)] } := by decide +kernel
/-- V-S19. -/
theorem test_reserved : next (exec (.reserved 0xFF 0) (reading .fw)) = reading .fw := by decide +kernel

/-! ## The operations behind the closing flag -/

/-- V-B1: 80000 ticks are at the threshold, so the record extends the burst; V-A1 gives the lanes. -/
theorem test_smoother_extends :
    let t := next (exec .flag (averaging 80000 0x3F800000 body2))
    t.out = [.raw (all10 0x40000000)] ∧ t.avg = .b32 (all10 0x3FC00000) := by decide +kernel
/-- V-B2: 80001 ticks flush the average and seed a new one. -/
theorem test_smoother_new_burst :
    let t := next (exec .flag (averaging 80001 0x3F800000 body2))
    t.out = [.avg (.b32 (all10 0x3F800000)), .raw (all10 0x40000000)] ∧ t.avg = .b32 (all10 0x40000000) := by
  decide +kernel
/-- V-A2, V-A3, V-A6, V-A8, V-A9, V-A10, V-A11, V-A14, V-A16, V-A17, V-A20, V-A21, V-A23, V-A24. -/
theorem test_avg2_binary32 :
    [(0x3FC00000, 0x40800000), (0x00000000, 0x80000000), (0x7F61B1E6, 0x7F61B1E6), (0x7F7FFFFF, 0xFF7FFFFF),
      (0x00000001, 0x00000000), (0x00000003, 0x00000000), (0x80000001, 0x00000000), (0x00FFFFFF, 0x00000000),
      (0x7F800000, 0xFF800000), (0xFF800000, 0xFF800000), (0x7F800001, 0x7F800000), (0x3F800001, 0x3F800000),
      (0x4B800001, 0x3F800000), (0x3DCCCCCD, 0x3E4CCCCD)].map (fun p : F32 × F32 => avg2Bits32 p.1 p.2) =
    [0x40300000, 0x00000000, 0x7F800000, 0x00000000, 0x00000000, 0x00000002, 0x80000000, 0x00800000, 0x7FC00000,
      0xFF800000, 0x7FC00000, 0x3F800000, 0x4B000002, 0x3E19999A] := by decide +kernel
/-- V-D2, V-D4, V-D5, V-D6, V-D7, V-D9. -/
theorem test_binary64 :
    [0x00000001, 0xFF800000, 0x3DCCCCCD, 0x7F800001].map widen64 =
      [0x36A0000000000000, 0xFFF0000000000000, 0x3FB99999A0000000, 0x7FF8000000000000] ∧
    avg2Bits64 (widen64 0x7F7FFFFF) (widen64 0x7F7FFFFF) = 0x47EFFFFFE0000000 ∧
    avg2Bits64 (widen64 0x7F000000) (widen64 0x00000001) = 0x47D0000000000000 := by decide +kernel
/-- V-R1 to V-R5 and V-R7, with 2 decimals in hundredths. -/
theorem test_render :
    [0x40300000, 0x40200000, 0x40600000, 0x3E000000, 0x3EC00000, 0xBF000000].map (fun x => renderLane .binary32 x 0) =
      [some 3, some 2, some 4, some 0, some 0, some 0] ∧
    [0x40300000, 0x40200000, 0x40600000, 0x3E000000, 0x3EC00000, 0xBF000000].map (fun x => renderLane .binary32 x 2) =
      [some 275, some 250, some 350, some 12, some 38, some (-50)] := by decide +kernel
/-- V-I4, V-I6, V-I7 and V-I8: the checks, their order, and the default that makes none. -/
theorem test_interpreter_checks :
    let verdict (l k : Bool) (u : Bytes) : Option Malformed :=
      match interpret { cfg88 with lenCheck := l, chkVerify := k } u with
      | .ok _ => none
      | .error m => some m
    verdict true false [0x00, 0x03, 0x00, 0xAA, 0xBB] = some .length ∧
    verdict false true [0x00, 0x03, 0x00, 0x01, 0xFC] = some .checksum ∧
    verdict true true [0x00, 0x03, 0x00, 0x01, 0xFC] = some .length ∧
    verdict false false [0x00, 0x03, 0x00, 0x01, 0xFC] = none ∧
    verdict false true [0x00, 0x03, 0x00, 0x01, 0xFB] = none := by decide +kernel
/-- V-C6, V-C7 and W10. -/
theorem test_version_text :
    versionText (fwValues [0x02, 0x03, 0, 0, 0, 0, 0]) = "2.3" ∧
    versionText (fwValues [0xFF, 0x80, 0x7F, 0x01, 0, 0, 0]) = "-1.-128" := by decide +kernel
/-- W1's checksum, and the words of V-S3's events as the assembler gives them. -/
theorem test_assembler :
    checksumOf [0x00, 0x03, 0x00] = 0xFC ∧ wireFrame (framecBody 0x00 0x03 0x00 []) = measurementRequest ∧
    (assembleText ["start fw ; a comment", "", "rxs 7E 00 03 00 FC 7E"]) =
      some [0x02000001, 0x0100007E, 0x01000000, 0x01000003, 0x01000000, 0x010000FC, 0x0100007E] ∧
    assembleText ["tick 16777216"] = none := by decide +kernel

/-! ## The step fetches the host's word -/

theorem test_fetch_word :
    fetch (State.reset.withFetchWord 32 0x03000007) = .event (.tick 7) State.reset ∧
    fetch (State.reset.withFetchWord 8 0x7E) = .wire .flag { State.reset with armed := true } ∧
    fetch (State.reset.withFetchWord 16 0x7D33) =
      .unit .esc13 { State.reset with scan := some (Scan.start [0x7D, 0x33]) } ∧
    fetch (State.reset.withFetchWord 8 0x7D) =
      .unit .escTrailing { State.reset with scan := some (Scan.start [0x7D]) } := by decide +kernel
theorem test_reset_waits : next (step State.reset) = State.reset := by decide +kernel

/-! ## For each statement with hypotheses, states that meet them, one for each clause -/

/-- A frame of the body `00 03 00 41 FF`, whose payload is "A". -/
def bodyA : Bytes := [0x00, 0x03, 0x00, 0x41, 0xFF]

theorem witness_DecodeInvertsEncode :
    (Instr.tick 0xFFFFFF).wellFormed = true ∧ (Instr.reserved 0x02 3).wellFormed = true ∧
      (Instr.data 0x7D).wellFormed = true ∧ (Instr.escInvalid 0x7E).wellFormed = true := by decide
theorem witness_ReservedWordsChangeNothing :
    (decodeEvent 0x02000003).mnemonic = "RESERVED" ∧ (collecting .meas [0x00]).Quiescent := by decide +kernel
theorem witness_UnstuffIdentityWithoutEscape : escByte ∉ ([0x7E, 0x11, 0x13] : Bytes) := by decide
theorem witness_UnstuffLengthCountsPairs : unstuff [0x7D, 0x5E, 0x00] = .ok [0x7E, 0x00] := by decide +kernel
theorem witness_UnstuffErrorIsLowestFailure :
    unstuff [0x01, 0x7D] = .error ⟨.escTrailing, 1⟩ ∧ unstuff [0x7D, 0x7D, 0x5E] = .error ⟨.escInvalid, 0⟩ := by
  decide +kernel
theorem witness_StandaloneScanStepsAreUnstuff :
    let s := { calling [0x7D, 0x5E] with src := [0x7E] }
    s.inbox = [] ∧ s.coreEnabled = false ∧ s.scan = some (Scan.start [0x7D, 0x5E]) := by decide +kernel
theorem witness_PairUnitsProduceTheirByte :
    [[0x7D, 0x5E, 0x01], [0x7D, 0x5D, 0x01], [0x7D, 0x31], [0x7D, 0x33]].map
        (fun r : Bytes => (calling r).scan.map (fun sc => (sc.err, sc.rest))) =
      [some (none, [0x7D, 0x5E] ++ [0x01]), some (none, [0x7D, 0x5D] ++ [0x01]), some (none, [0x7D, 0x31] ++ []),
        some (none, [0x7D, 0x33] ++ [])] := by decide +kernel
theorem witness_LiteralUnitProducesItself :
    (calling [0x7E, 0x01]).scan = some ⟨[0x7E, 0x01], 0, [], none⟩ ∧ (0x7E : Byte) ≠ escByte := by decide +kernel
theorem witness_FailingUnitsEndTheScan :
    (calling [0x7D]).scan = some ⟨[0x7D], 0, [], none⟩ ∧
    isEscapeCode 0x7E = false ∧ (calling [0x7D, 0x7E]).scan = some ⟨[0x7D, 0x7E], 0, [], none⟩ := by decide +kernel
theorem witness_UnitsWithoutACallDoNothing :
    Instr.esc7E.format = .body ∧ State.reset.scan = none ∧
    (Scan.mk [0x7D] 0 [] (some ⟨.escTrailing, 0⟩)).done = true ∧ (Scan.mk [] 2 [0x7E] none).done = true := by
  decide +kernel
theorem test_no_unit_after_ok :
    exec (.literal 0x41) { State.reset with scan := some ⟨[], 2, [0x7E], none⟩ } =
      .next { State.reset with scan := some ⟨[], 2, [0x7E], none⟩ } := rfl
theorem witness_FlagOpensFrameInIdle : (reading .fw).armed = true ∧ (reading .fw).asm = .idle := by decide +kernel
theorem witness_FlagClosesFrameInCollecting :
    (collecting .fw [0x7D]).InFrame ∧ (collecting .fw bodyA).InFrame ∧ (collecting .fw []).InFrame := by decide +kernel
theorem witness_DataByteByState :
    (0x7D : Byte) ≠ flagByte ∧ (reading .fw).asm = .idle ∧ (reading .fw).armed = true ∧
    (let s := collecting .fw (List.replicate 87 0); s.armed = true ∧ s.asm = .collecting ∧ s.buf.length < s.cfg.maxCollect) ∧
    (let s := collecting .fw (List.replicate 88 0); s.armed = true ∧ s.asm = .collecting ∧ s.cfg.maxCollect ≤ s.buf.length) := by
  decide +kernel
theorem witness_WireBytesNeedAnArmedRead :
    (Instr.data 0x41).format = .wire ∧ Instr.flag.format = .wire ∧ State.reset.armed = false := by decide +kernel
theorem witness_WireBytesKeepTheRest :
    (∃ t, exec .flag (collecting .fw []) = .next t ∧ t.armed = (collecting .fw []).armed) ∧
    (∃ t, exec .flag (collecting .fw bodyA) = .next t ∧ t.armed ≠ (collecting .fw bodyA).armed) :=
  ⟨⟨_, rfl, by decide +kernel⟩, ⟨_, rfl, by decide +kernel⟩⟩
theorem witness_AcceptedFrameEndsTheRead :
    let s := collecting .serial bodyA
    s.InFrame ∧ unstuff s.buf = .ok bodyA ∧ interpret s.cfg bodyA = .ok ⟨0x00, 0x03, 0x00, [0x41], 0xFF⟩ := by
  decide +kernel
theorem witness_FramedBodyIsReadWhole :
    let s := { reading .serial with src := wireFrame bodyA ++ [0x55] }
    let q := { reading .serial with src := wireFrame [] ++ [0x55] }
    (s.armed = true ∧ s.asm = .idle ∧ (stuff bodyA).length ≤ s.cfg.maxCollect ∧
      interpret s.cfg bodyA = .ok ⟨0x00, 0x03, 0x00, [0x41], 0xFF⟩) ∧
    (q.armed = true ∧ q.asm = .idle ∧ (stuff []).length ≤ q.cfg.maxCollect ∧ interpret q.cfg [] = .error .short) := by
  decide +kernel
/-- The read both above and at the threshold, with and without an average. -/
theorem witness_MeasFrameReadEmitsItsRecord :
    let ok (s : State) := s.cfg.Legal ∧ s.cfg.lenCheck = false ∧ s.cfg.chkVerify = false ∧ s.armed = true ∧
      s.asm = .idle ∧ s.mode = .meas ∧
      s.src = wireFrame (0x00 :: 0x03 :: 0x00 :: (measPayload (all10 0x40000000) ++ [0x7B])) ++ [0x55]
    let src := wireFrame (0x00 :: 0x03 :: 0x00 :: (measPayload (all10 0x40000000) ++ [0x7B])) ++ [0x55]
    ok { reading .meas with src := src } ∧
    ok { averaging 80001 0x3F800000 [] with asm := .idle, src := src } ∧
    ok { averaging 80000 0x3F800000 [] with asm := .idle, src := src } := by decide +kernel
theorem witness_OverlongBodyOverflows :
    let s := { collecting .fw [] with src := List.replicate 88 0x00 ++ 0x00 :: [0x7E] }
    s.InFrame ∧ s.buf = [] ∧ flagByte ∉ List.replicate 88 (0x00 : Byte) ∧ (0x00 : Byte) ≠ flagByte ∧
      (List.replicate 88 (0x00 : Byte)).length = s.cfg.maxCollect := by decide +kernel
theorem witness_DrainIsRepeatedCoreSteps :
    (∃ t, exec (decodeWire 0x7E) (reading .fw) = .next t) ∧
    ({ reading .fw with src := [0x7E] }.armed = true ∧ { reading .fw with src := [0x7E] }.src = 0x7E :: []) ∧
    State.reset.armed = false ∧ (reading .fw).src = [] ∧ (reading .fw).drain.armed = true :=
  ⟨⟨_, rfl⟩, by decide +kernel⟩
theorem witness_StepRunsDecodedInstruction :
    { State.reset with inbox := [0x05000000] }.inbox = 0x05000000 :: [] ∧
    (let s := { reading .fw with src := [0x7E] }; s.inbox = [] ∧ s.armed = true ∧ s.src = 0x7E :: []) ∧
    (let s := calling [0x7D, 0x5E]; s.inbox = [] ∧ (s.armed = false ∨ s.src = []) ∧
      s.scan = some ⟨[0x7D, 0x5E], 0, [], none⟩ ∧ decodeUnit [0x7D, 0x5E] = .ok (.esc7E, [])) ∧
    (State.reset.inbox = [] ∧ State.reset.armed = false ∧ State.reset.scan = none) := by decide +kernel
theorem witness_ResetHasInvariant : cfg88.Legal ∧ Config.default.Legal := by decide
/-- An invariant state in the middle of a frame, after one event. -/
theorem witness_StepKeepsInvariant :
    let s := { collecting .fw [0x41] with
      inbox := [0x0100007E], out := [.evt (.malformed .short)], mfCount := 1, mfLast := some .short }
    s.Inv ∧ ∃ t, step s = .next t := by
  refine ⟨⟨by decide, by decide +kernel, by decide +kernel, by decide +kernel, by decide +kernel, rfl, fun _ => rfl,
    by decide +kernel, by decide +kernel, ?_⟩, _, rfl⟩
  intro x hx
  obtain rfl : x = .evt (.malformed .short) := by simpa using hx
  exact ⟨by decide, by decide⟩
theorem witness_StepLeavesNoEnabledCoreStep :
    { reading .fw with inbox := [0x0100007E] }.inbox ≠ [] ∧ (reading .fw).Quiescent ∧
    (∃ t, step { reading .fw with inbox := [0x0100007E] } = .next t) ∧ ∃ t, step (reading .fw) = .next t :=
  ⟨by decide +kernel, by decide +kernel, ⟨_, rfl⟩, ⟨_, rfl⟩⟩
theorem witness_StepKeepsConfiguration : ∃ t, step { reading .fw with inbox := [0x05000000] } = .next t := ⟨_, rfl⟩
theorem witness_OutputOnlyGrows : ∃ t, step { reading .fw with inbox := [0x04000000] } = .next t := ⟨_, rfl⟩
theorem witness_ModeFixedWhileArmed :
    let s := { reading .fw with inbox := [0x02000000] }
    s.armed = true ∧ ¬ s.ResetIsNext ∧ ∃ t, step s = .next t := ⟨by decide +kernel, by decide +kernel, _, rfl⟩
/-- A read ended by RESET, by IO_ERROR, and by a frame of either code in each mode. -/
theorem witness_ReadEndsOnlyWithAResult :
    ∀ s ∈ [{ reading .fw with inbox := [0x05000000] }, { reading .fw with inbox := [0x04000000] },
        { collecting .meas body2 with src := [0x7E] }, { collecting .meas bodyA with src := [0x7E] },
        { collecting .fw [0, 3, 0, 1, 2, 3, 4, 5, 6, 7, 0xE0] with src := [0x7E] },
        { collecting .fw bodyA with src := [0x7E] }, { collecting .serial bodyA with src := [0x7E] },
        { collecting .serial [0, 3, 0, 0x80, 0] with src := [0x7E] }],
      s.armed = true ∧ ∃ t, step s = .next t ∧ t.armed = false := by
  simp only [List.forall_mem_cons]
  refine ⟨⟨rfl, _, rfl, ?_⟩, ⟨rfl, _, rfl, ?_⟩, ⟨rfl, _, rfl, ?_⟩, ⟨rfl, _, rfl, ?_⟩, ⟨rfl, _, rfl, ?_⟩, ⟨rfl, _, rfl, ?_⟩,
    ⟨rfl, _, rfl, ?_⟩, ⟨rfl, _, rfl, ?_⟩, by simp⟩ <;> decide +kernel
theorem witness_SourceStepsAreTheDrain :
    let s := { reading .fw with src := wireFrame bodyA ++ [0x55] }
    s.inbox = [] ∧ s.scan = none := by decide +kernel
theorem witness_RxAppendsToSource : State.reset.armed = false := by decide +kernel
theorem witness_StartReadArmsOrIsIgnored : State.reset.armed = false ∧ (reading .fw).armed = true := by decide +kernel
theorem witness_TickCountsWhileArmed : (reading .fw).armed = true ∧ State.reset.armed = false := by decide +kernel
theorem witness_IoErrorEndsTheRead : (collecting .fw [0x00]).armed = true ∧ State.reset.armed = false := by
  decide +kernel
theorem witness_EventsKeepTheEnvironment :
    Instr.reset.format = .event ∧ (∀ b, Instr.reset ≠ .rx b) ∧ ∃ t, exec .reset (collecting .fw [0x00]) = .next t :=
  ⟨rfl, fun _ => by simp, _, rfl⟩
theorem witness_InterpretChecksInOrder : ([0, 3, 0, 0xFC] : Bytes).length < 5 ∧ ([0x01] : Bytes) ≠ [] := by decide
theorem witness_MeasPayloadRoundTrip : (List.replicate 40 (0x7F : Byte)).length = 40 := by decide
/-- A payload of 40 bytes at the threshold, above it and with no average, and one of 1 byte without and with an average. -/
theorem witness_MeasCompletionItemsInOrder :
    let ok (s : State) (u : Bytes) (n : Nat) := s.InFrame ∧ s.mode = .meas ∧ unstuff s.buf = .ok u ∧
      (match interpret s.cfg u with | .ok f => f.payload.length = n | .error _ => False)
    ok (averaging 80000 0x3F800000 body2) body2 40 ∧ ok (averaging 80001 0x3F800000 body2) body2 40 ∧
    ok (collecting .meas body2) body2 40 ∧ ok (collecting .meas bodyA) bodyA 1 ∧
    ok (averaging 80000 0x3F800000 bodyA) bodyA 1 := by
  refine ⟨⟨by decide +kernel, by decide +kernel, by decide +kernel, ?_⟩,
    ⟨by decide +kernel, by decide +kernel, by decide +kernel, ?_⟩,
    ⟨by decide +kernel, by decide +kernel, by decide +kernel, ?_⟩,
    ⟨by decide +kernel, by decide +kernel, by decide +kernel, ?_⟩,
    ⟨by decide +kernel, by decide +kernel, by decide +kernel, ?_⟩⟩ <;> rfl
theorem witness_FirmwareCompletion :
    let s := collecting .fw [0, 3, 0, 1, 2, 3, 4, 5, 6, 7, 0xE0]
    (s.InFrame ∧ s.mode = .fw ∧ unstuff s.buf = .ok s.buf ∧
      interpret s.cfg s.buf = .ok ⟨0, 3, 0, [1, 2, 3, 4, 5, 6, 7], 0xE0⟩) ∧
    ((collecting .fw bodyA).InFrame ∧ (collecting .fw bodyA).mode = .fw ∧ unstuff bodyA = .ok bodyA ∧
      interpret cfg88 bodyA = .ok ⟨0x00, 0x03, 0x00, [0x41], 0xFF⟩) := by decide +kernel
/-- The payloads 7F and 80. -/
theorem witness_SerialCompletion :
    let ok (b : Byte) := (collecting .serial [0, 3, 0, b, 0]).InFrame ∧ (collecting .serial [0, 3, 0, b, 0]).mode = .serial ∧
      unstuff [0, 3, 0, b, 0] = .ok [0, 3, 0, b, 0] ∧ interpret cfg88 [0, 3, 0, b, 0] = .ok ⟨0, 3, 0, [b], 0⟩
    (ok 0x7F ∧ ∀ b ∈ ([0x7F] : Bytes), b.toNat ≤ 0x7F) ∧ ok 0x80 ∧ ∃ b ∈ ([0x80] : Bytes), 0x7F < b.toNat := by
  decide +kernel
theorem witness_SmoothByClassification :
    (reading .meas).avgValid = false ∧
    (let s := averaging 80001 0x3F800000 []; s.avgValid = true ∧ s.cfg.thresholdTicks < s.elapsed.toNat) ∧
    (let s := averaging 80000 0x3F800000 []; s.avgValid = true ∧ s.elapsed.toNat ≤ s.cfg.thresholdTicks) ∧
    (let s := averaging 4294967295 0x3F800000 []; s.cfg.Legal ∧ s.elapsed.toNat = 2 ^ 32 - 1) := by decide +kernel
/-- 1 and 3 halves of an ulp, and the two sides of the overflow threshold. -/
theorem witness_RoundingIsToNearestEven :
    fl .binary32 true 3 1 = .fin true 2 ∧ fl .binary32 false 1 1 = .fin false 0 ∧
    (2 ^ (fracBits .binary32 + 2) - 1) * 2 ^ (expOnes .binary32 - 2) * 2 ^ 0 ≤ 2 * ((2 ^ 25 - 1) * 2 ^ 252) ∧
    2 * ((2 ^ 25 - 1) * 2 ^ 252 - 1) < (2 ^ (fracBits .binary32 + 2) - 1) * 2 ^ (expOnes .binary32 - 2) * 2 ^ 0 := by
  decide +kernel
theorem witness_NaNResultsAreCanonical :
    unpack .binary32 (avg2Bits32 0x7FC00001 0x3F800000).toNat = .nan ∧ unpack .binary32 0x7FC00001 = .nan ∧
    unpack .binary64 (avg2Bits64 0xFFF8000000000001 0x3FF0000000000000).toNat = .nan ∧
    unpack .binary64 0xFFF8000000000001 = .nan := by decide +kernel
theorem witness_WidenIsExact :
    unpack .binary32 0xFF800000 = .inf true ∧ unpack .binary32 0x00000001 = .fin false 1 := by decide +kernel
theorem witness_PackInvertsUnpack :
    unpack .binary32 (0xFF800000 : F32).toNat ≠ .nan ∧ unpack .binary64 (0x3FF0000000000000 : F64).toNat ≠ .nan := by
  decide +kernel
theorem witness_BurstUntouchedOutsideMeas :
    (let s := { collecting .fw bodyA with src := [0x7E] }
     s.armed = true ∧ s.mode ≠ .meas ∧ ¬ s.ResetIsNext ∧ ∃ t, step s = .next t) ∧
    ∀ w ∈ ([0x04000000, 0x03000007, 0x06000000] : List EventWord),
      let s := { averaging 5 0x3F800000 [] with inbox := [w] }
      s.Quiescent ∧ s.inbox = w :: [] ∧ ((decodeEvent w).mnemonic ∈ ["IO_ERROR", "TICK", "RESERVED"]) ∧
        ∃ t, step s = .next t := by
  refine ⟨⟨rfl, by decide +kernel, by decide +kernel, _, rfl⟩, List.forall_mem_cons.2 ⟨?_, List.forall_mem_cons.2 ⟨?_,
    List.forall_mem_cons.2 ⟨?_, by simp⟩⟩⟩⟩ <;> exact ⟨fun _ => rfl, rfl, by decide, _, rfl⟩
theorem witness_HostReadsTheRegisters :
    State.reset.mfLast = none ∧ { State.reset with mfLast := some .short }.mfLast = some .short ∧
    State.reset.cfg.maxCollect < 2 ^ 10 ∧ ¬ State.reset.cfg.maxCollect < 2 ^ 9 ∧
    (averaging 5 0x3F800000 []).avg = .b32 (all10 0x3F800000) ∧
    { State.reset with avg := .b64 (Fields.const 0x3FF0000000000000) }.avg = .b64 (Fields.const 0x3FF0000000000000) :=
  ⟨rfl, rfl, by decide +kernel, by decide +kernel, rfl, rfl⟩
/-- R26: 10 bits at the default MAX_COLLECT of 512. -/
theorem test_buf_len_width : hostRead State.reset .bufLen = ⟨10, 0⟩ := by decide +kernel
theorem witness_CauseCodesOfTheTable : (Cause.malformed .short).code = (Cause.malformed .short).code := rfl
theorem witness_CountersNeverDecrease :
    let s := { collecting .fw [] with src := [0x7E], mfCount := 0xFFFFFFFF, mfLast := some .short }
    ¬ s.ResetIsNext ∧ ∃ t, step s = .next t := ⟨by decide +kernel, _, rfl⟩
theorem witness_RenderedLaneIsNearestEven :
    unpack .binary32 0x40200000 = .fin false (5 * 2 ^ 148) ∧ ∀ neg m, unpack .binary32 0x7F800000 ≠ .fin neg m := by
  refine ⟨by decide +kernel, fun neg m h => ?_⟩
  have : unpack .binary32 0x7F800000 = .inf false := by decide +kernel
  rw [this] at h
  cases h

end Sys2Proof.Tests
end

section
/-! PROOF. Power-on and RESET (R36, R247, R300): the registers' reset values, and that the drain after RESET does nothing. -/

namespace Sys2Proof.Machine

/-! ## The registers after a reset -/

theorem State.resetRegisters_registersReset (s : State) : s.resetRegisters.RegistersReset := by
  simp [State.RegistersReset]

/-- The power-on state is already reset: RESET changes nothing there. -/
@[simp] theorem State.resetRegisters_powerOn (c : Config) : (State.powerOn c).resetRegisters = State.powerOn c := rfl

theorem State.powerOn_registersReset (c : Config) : (State.powerOn c).RegistersReset := by
  simpa using (State.powerOn c).resetRegisters_registersReset

@[simp] theorem State.powerOn_src (c : Config) : (State.powerOn c).src = [] := rfl
@[simp] theorem State.powerOn_out (c : Config) : (State.powerOn c).out = [] := rfl

/-! ## RESET's word, its own action and the drain after it -/

theorem decodeEvent_resetWord : decodeEvent 0x05000000 = .reset := by decide

theorem exec_reset (s : State) : exec .reset s = .next s.resetRegisters := exec_eq .reset s

/-- RESET ends the read, so no byte of the source is consumed after it (R247, R250). -/
theorem State.drain_resetRegisters (s : State) : s.resetRegisters.drain = s.resetRegisters :=
  State.drain_of_unarmed s.resetRegisters_armed

theorem apply_resetWord (s : State) : apply s 0x05000000 = .next s.resetRegisters := by
  rw [apply_eq, decodeEvent_resetWord, execState, State.drain_resetRegisters]

/-- Settles O42: RESET answers `s.resetRegisters`, which the drain leaves alone because no read is armed. -/
theorem resetRestoresRegisters : Obligations.ResetRestoresRegisters := by
  refine ⟨fun c => ?powerOn, decodeEvent_resetWord, fun s => ⟨s.resetRegisters, ?reset⟩⟩
  case powerOn =>
    exact ⟨State.powerOn_registersReset c, State.powerOn_src c, State.powerOn_out c⟩
  case reset =>
    exact ⟨exec_reset s, apply_resetWord s, s.resetRegisters_registersReset, s.resetRegisters_out, s.resetRegisters_src,
      s.resetRegisters_cfg⟩

end Sys2Proof.Machine
end

section
/-! PROOF. The reserved event words (R87, R248): the words that no defined row matches, sorted by their class, and that
such a word, its drain included, leaves a state between events as it is. -/

namespace Sys2Proof

/-! ## What the decoder reads as RESERVED -/

theorem Instr.mnemonic_eq_reserved_iff {i : Instr} :
    i.mnemonic = "RESERVED" ↔ ∃ op operand, i = .reserved op operand := by
  constructor
  · intro h
    cases i with
    | reserved op operand => exact ⟨op, operand, rfl⟩
    | _ => simp [Instr.mnemonic] at h
  · rintro ⟨op, operand, rfl⟩
    rfl

/-- The defined rows of R81 to R86, on the class and the operand as numbers. -/
theorem isDefinedEvent_iff (op : BitVec 8) (x : BitVec 24) :
    isDefinedEvent op x = true ↔
      (op.toNat = 1 ∧ x.toNat < 2 ^ 8) ∨ (op.toNat = 2 ∧ x.toNat < 3) ∨ op.toNat = 3 ∨
        (op.toNat = 4 ∧ x.toNat = 0) ∨ (op.toNat = 5 ∧ x.toNat = 0) := by
  simp [isDefinedEvent, ← BitVec.toNat_inj, or_assoc]

/-- The decoder's fallback row takes exactly the words that no defined row matches (R87, R90). -/
theorem decodeEvent_reserved_iff_not_defined (w : EventWord) :
    (decodeEvent w).mnemonic = "RESERVED" ↔ ¬ isDefinedEvent (eventOp w) (eventOperand w) = true := by
  rw [isDefinedEvent_iff, decodeEvent]
  simp only [operand_high_zero_iff]
  split_ifs with rx meas fw serial tick ioError reset
  case neg =>
    simp only [Instr.mnemonic, true_iff]
    bv_omega
  all_goals
    simp only [Instr.mnemonic, String.reduceEq, false_iff, not_not]
    bv_omega

/-! ## The operand's bits, read from the word -/

theorem word_bits_23_8_zero_iff (w : EventWord) : w.extractLsb' 8 16 = 0 ↔ (eventOperand w).toNat < 2 ^ 8 := by
  rw [← operand_high_zero_iff, eventOperand, BitVec.extractLsb'_extractLsb'_of_le (by decide)]

theorem word_bits_23_0_zero_iff (w : EventWord) : w.extractLsb' 0 24 = 0 ↔ (eventOperand w).toNat = 0 := by
  rw [← BitVec.toNat_inj]
  rfl

/-- A START_READ operand with a bit of 23:2 set or with mode 3 is one past the three modes (R82, R84). -/
theorem word_mode_undefined_iff (w : EventWord) :
    w.extractLsb' 2 22 ≠ 0 ∨ w.extractLsb' 0 2 = 3 ↔ 3 ≤ (eventOperand w).toNat := by
  rw [eventOperand, Ne, ← BitVec.toNat_inj, ← BitVec.toNat_inj]
  simp only [BitVec.extractLsb'_toNat, Nat.shiftRight_eq_div_pow, pow_zero, Nat.div_one, BitVec.reduceToNat]
  omega

/-- R87's list: a class no row has, or a defined class with an operand outside its row. -/
theorem decodeEvent_reserved_iff (w : EventWord) :
    (decodeEvent w).mnemonic = "RESERVED" ↔
      (eventOp w = 0x00 ∨ 0x06 ≤ (eventOp w).toNat) ∨
      (eventOp w = 0x01 ∧ w.extractLsb' 8 16 ≠ 0) ∨
      (eventOp w = 0x02 ∧ (w.extractLsb' 2 22 ≠ 0 ∨ w.extractLsb' 0 2 = 3)) ∨
      ((eventOp w = 0x04 ∨ eventOp w = 0x05) ∧ w.extractLsb' 0 24 ≠ 0) := by
  rw [decodeEvent_reserved_iff_not_defined, isDefinedEvent_iff, word_mode_undefined_iff, Ne, word_bits_23_8_zero_iff,
    Ne, word_bits_23_0_zero_iff]
  bv_omega

namespace Machine

/-! ## What a reserved word does -/

theorem exec_reserved (op : BitVec 8) (operand : BitVec 24) (s : State) : exec (.reserved op operand) s = .next s :=
  exec_eq (.reserved op operand) s

/-- Between events no core step is enabled, so a drain does nothing (R250). -/
theorem State.drain_of_quiescent {s : State} (h : s.Quiescent) : s.drain = s := by
  cases ha : s.armed with
  | false => exact State.drain_of_unarmed ha
  | true => exact State.drain_of_empty (h ha)

theorem apply_reserved {w : EventWord} {s : State} (hw : (decodeEvent w).mnemonic = "RESERVED") (hs : s.Quiescent) :
    apply s w = .next s := by
  obtain ⟨op, operand, hi⟩ := Instr.mnemonic_eq_reserved_iff.mp hw
  rw [apply_eq, hi, execState, State.drain_of_quiescent hs]

/-- Settles O4: the reserved words are those no defined row matches, and their action and drain do nothing. -/
theorem reservedWordsChangeNothing : Obligations.ReservedWordsChangeNothing :=
  ⟨decodeEvent_reserved_iff, exec_reserved, fun _ _ => apply_reserved⟩

end Machine
end Sys2Proof
end

section
/-! PROOF. The unstuffer on strings that do not fail: it undoes `stuff` (R115), it is the identity where no 7D stands
(R111), and each escape pair it consumes shortens its output by one byte (R110). -/

namespace Sys2Proof

/-! ## The stuffing of a string, byte by byte (R114) -/

@[simp] theorem stuff_nil : stuff [] = [] := rfl

@[simp] theorem stuff_cons (x : Byte) (xs : Bytes) : stuff (x :: xs) = stuffByte x ++ stuff xs := rfl

/-! ## The unit at the head of a stuffed body -/

theorem decodeUnit_literal {x : Byte} (h : x ≠ escByte) (rest : Bytes) :
    decodeUnit (x :: rest) = .ok (.literal x, rest) := by
  simp [decodeUnit, h]

theorem decodeUnit_escape (c : Byte) (rest : Bytes) :
    decodeUnit (escByte :: c :: rest) = .ok (escapeUnit c, rest) := by
  simp [decodeUnit]

theorem decodeUnit_trailing : decodeUnit [escByte] = .ok (.escTrailing, []) := by
  simp [decodeUnit]

/-- Every unit takes at least one byte (R90). -/
theorem decodeUnit_rest_length {s rest : Bytes} {i : Instr} (h : decodeUnit s = .ok (i, rest)) :
    rest.length < s.length := by
  match s with
  | [] => cases h
  | x :: tail =>
    by_cases hx : x = escByte
    · subst hx
      match tail with
      | [] => cases decodeUnit_trailing.symm.trans h; simp
      | c :: tail' => cases (decodeUnit_escape c tail').symm.trans h; simp
    · cases (decodeUnit_literal hx tail).symm.trans h; simp

/-! ## The units of a stuffed body -/

/-- Two bounds on the number of units give the same units when neither is smaller than the string. -/
theorem bodyUnitsUpTo_congr : ∀ {n m : Nat} {s : Bytes}, s.length ≤ n → s.length ≤ m →
    bodyUnitsUpTo n s = bodyUnitsUpTo m s
  | 0, 0, _, _, _ => rfl
  | 0, _ + 1, s, hn, _ => by
    rw [List.eq_nil_of_length_eq_zero (Nat.le_zero.mp hn)]; rfl
  | _ + 1, 0, s, _, hm => by
    rw [List.eq_nil_of_length_eq_zero (Nat.le_zero.mp hm)]; rfl
  | n + 1, m + 1, s, hn, hm => by
    cases hd : decodeUnit s with
    | error e => simp [bodyUnitsUpTo, hd]
    | ok unit =>
      obtain ⟨i, rest⟩ := unit
      have shorter := decodeUnit_rest_length hd
      simpa [bodyUnitsUpTo, hd] using bodyUnitsUpTo_congr (s := rest) (by omega) (by omega)

theorem bodyUnits_of_decodeUnit {s rest : Bytes} {i : Instr} (h : decodeUnit s = .ok (i, rest)) :
    bodyUnits s = i :: bodyUnits rest := by
  have shorter := decodeUnit_rest_length h
  calc bodyUnits s
      = bodyUnitsUpTo (s.length + 1) s := bodyUnitsUpTo_congr (Nat.le_refl _) (Nat.le_succ _)
    _ = i :: bodyUnitsUpTo s.length rest := by simp [bodyUnitsUpTo, h]
    _ = i :: bodyUnits rest := by rw [bodyUnits, bodyUnitsUpTo_congr (by omega) (Nat.le_refl _)]

namespace Machine

/-! ## Escape pairs (R110) -/

theorem isPairUnit_escapeUnit (c : Byte) : isPairUnit (escapeUnit c) = isEscapeCode c := by
  unfold escapeUnit isEscapeCode
  split_ifs <;> simp_all [isPairUnit]

@[simp] theorem escapePairs_nil : escapePairs [] = 0 := rfl

theorem escapePairs_literal {x : Byte} (h : x ≠ escByte) (rest : Bytes) :
    escapePairs (x :: rest) = escapePairs rest := by
  simp [escapePairs, bodyUnits_of_decodeUnit (decodeUnit_literal h rest), isPairUnit]

theorem escapePairs_pair {c : Byte} (h : isEscapeCode c = true) (rest : Bytes) :
    escapePairs (escByte :: c :: rest) = escapePairs rest + 1 := by
  simp [escapePairs, bodyUnits_of_decodeUnit (decodeUnit_escape c rest), isPairUnit_escapeUnit, h]

/-! ## The unstuffer undoes the stuffing (R115) -/

/-- A scan takes what one byte is sent as for that byte: a literal, or the pair that stands for it. -/
theorem scanFrom_stuffByte (x : Byte) (rest : Bytes) (i : Nat) (u : Bytes) :
    scanFrom (stuffByte x ++ rest) i u = scanFrom rest (i + (stuffByte x).length) (u ++ [x]) := by
  unfold stuffByte
  split_ifs with h7E h7D h11 h13
  case neg => exact scanFrom_literal h7D rest i u
  all_goals
    subst x
    simp [scanFrom_escape]

theorem scanFrom_stuff (x : Bytes) (i : Nat) (u : Bytes) : scanFrom (stuff x) i u = .ok (u ++ x) := by
  induction x generalizing i u with
  | nil => simp [scanFrom]
  | cons b bs ih => rw [stuff_cons, scanFrom_stuffByte, ih, List.append_assoc, List.singleton_append]

/-- Settles O7: the scan of a stuffed string produces that string, one byte for each stuffed byte. -/
theorem unstuffInvertsStuff : Obligations.UnstuffInvertsStuff := fun x => by
  rw [unstuff_eq, scanFrom_stuff, List.nil_append]

/-! ## A string without 7D (R111) -/

theorem scanFrom_of_escByte_notMem {s : Bytes} (h : escByte ∉ s) (i : Nat) (u : Bytes) :
    scanFrom s i u = .ok (u ++ s) := by
  induction s generalizing i u with
  | nil => simp [scanFrom]
  | cons b bs ih =>
    obtain ⟨hb, hbs⟩ := List.ne_and_not_mem_of_not_mem_cons h
    rw [scanFrom_literal hb.symm, ih hbs, List.append_assoc, List.singleton_append]

/-- Settles O8: without a 7D every unit is a literal. -/
theorem unstuffIdentityWithoutEscape : Obligations.UnstuffIdentityWithoutEscape := by
  have identity : ∀ s : Bytes, escByte ∉ s → unstuff s = .ok s := fun s h => by
    rw [unstuff_eq, scanFrom_of_escByte_notMem h, List.nil_append]
  exact ⟨identity, identity [] List.not_mem_nil⟩

/-! ## The unstuffed length (R110) -/

/-- A scan that answers has produced one byte for each literal and one for the two bytes of each pair. -/
theorem scanFrom_ok_length_pairs {r : Bytes} {i : Nat} {u v : Bytes} (h : scanFrom r i u = .ok v) :
    v.length + escapePairs r = u.length + r.length ∧ 2 * escapePairs r ≤ r.length := by
  obtain ⟨rfl, rfl⟩ | ⟨x, rest, rfl, hx, h'⟩ | ⟨c, y, rest, rfl, hc, h'⟩ := scanFrom_ok_cases h
  · simp
  · have ⟨length, pairs⟩ := scanFrom_ok_length_pairs h'
    rw [escapePairs_literal hx]
    simp only [List.length_append, List.length_cons, List.length_nil] at length ⊢
    omega
  · have ⟨length, pairs⟩ := scanFrom_ok_length_pairs h'
    rw [escapePairs_pair hc]
    simp only [List.length_append, List.length_cons, List.length_nil] at length ⊢
    omega
termination_by r.length

/-- Settles O9: the length follows from the count of pairs, and both bounds from each pair taking two bytes. -/
theorem unstuffLengthCountsPairs : Obligations.UnstuffLengthCountsPairs := fun s u h => by
  rw [unstuff_eq] at h
  obtain ⟨length, pairs⟩ := scanFrom_ok_length_pairs h
  simp only [List.length_nil, Nat.zero_add] at length
  omega

end Machine
end Sys2Proof
end

section
/-! PROOF. The frame synchronizer's transitions (R131 to R137): FLAG and DATA in each state with a read armed, and the
three outcomes of a completed body (R135). -/

namespace Sys2Proof.Machine

variable {s : State}

/-! ## A wire byte in a core step -/

theorem exec_flag_of_armed (h : s.armed = true) : exec .flag s = .next s.takeFlag := by
  rw [exec_eq, execState, State.inRead_of_armed h]

theorem exec_data_of_armed (h : s.armed = true) (b : Byte) : exec (.data b) s = .next (s.takeData b) := by
  rw [exec_eq, execState, State.inRead_of_armed h]

/-! ## FLAG in each state -/

theorem State.takeFlag_of_idle (h : s.asm = .idle) : s.takeFlag = s.openFrame := by
  rw [State.takeFlag, h]

theorem State.takeFlag_of_collecting (h : s.asm = .collecting) : s.takeFlag = s.closeFrame.completeBody s.buf := by
  rw [State.takeFlag, h, State.complete]

/-! ## The outcomes of a completed body -/

theorem State.completeBody_of_unstuff_error {w : Bytes} {e : UnstuffError} (h : unstuff w = .error e) :
    s.completeBody w = s.raiseMalformed e.code := by
  rw [State.completeBody, h]

theorem State.completeBody_of_interpret_error {w u : Bytes} {m : Malformed} (hu : unstuff w = .ok u)
    (hm : interpret s.cfg u = .error m) : s.completeBody w = s.raiseMalformed m := by
  simp only [State.completeBody, hu, hm]

theorem State.completeBody_of_interpret_ok {w u : Bytes} {f : Frame} (hu : unstuff w = .ok u)
    (hf : interpret s.cfg u = .ok f) : s.completeBody w = s.finishFrame f := by
  simp only [State.completeBody, hu, hf]

/-! ## DATA in each state -/

theorem State.takeData_of_idle (h : s.asm = .idle) (b : Byte) : s.takeData b = s := by
  rw [State.takeData, h]

theorem State.takeData_of_room (h : s.asm = .collecting) (room : s.buf.length < s.cfg.maxCollect) (b : Byte) :
    s.takeData b = s.memWrite b := by
  simp only [State.takeData, h, if_pos room]

theorem State.takeData_of_full (h : s.asm = .collecting) (full : s.cfg.maxCollect ≤ s.buf.length) (b : Byte) :
    s.takeData b = s.closeFrame.raiseMalformed .overflow := by
  simp only [State.takeData, h, if_neg (Nat.not_lt.mpr full)]

/-! ## The transitions as instructions -/

/-- Settles O17: in an armed read FLAG is `takeFlag`, which opens a frame from IDLE. -/
theorem flagOpensFrameInIdle : Obligations.FlagOpensFrameInIdle := fun s armed idle => by
  rw [exec_flag_of_armed armed, State.takeFlag_of_idle idle, State.openFrame]

/-- Settles O18: the body is completed from the closed frame, whose configuration is that of `s`; one case for each of its
three outcomes. -/
theorem flagClosesFrameInCollecting : Obligations.FlagClosesFrameInCollecting := by
  rintro s ⟨armed, collecting⟩ s₁ report
  rw [exec_flag_of_armed armed, State.takeFlag_of_collecting collecting]
  cases hu : unstuff s.buf with
  | error e => rw [State.completeBody_of_unstuff_error hu]; rfl
  | ok u =>
    cases hi : interpret s.cfg u with
    | error m => rw [State.completeBody_of_interpret_error (s := s.closeFrame) hu hi]; simp only [hi]; rfl
    | ok f => rw [State.completeBody_of_interpret_ok (s := s.closeFrame) hu hi]; simp only [hi]; rfl

/-- Settles O19: in an armed read DATA is `takeData`, and the two cases of COLLECTING split on the room in the buffer. -/
theorem dataByteByState : Obligations.DataByteByState := fun s b _ armed => by
  rw [exec_data_of_armed armed]
  refine ⟨fun idle => ?discarded, fun collecting room => ?appended, fun collecting full => ?overflow⟩
  case discarded => rw [State.takeData_of_idle idle]
  case appended => rw [State.takeData_of_room collecting room, State.memWrite]
  case overflow => rw [State.takeData_of_full collecting full]; rfl

end Sys2Proof.Machine
end

section
/-! PROOF. The Frame Interpreter's checks (R161, R164, R165) on a body written as its fields, and their order (R160). -/

namespace Sys2Proof.Machine

/-! ## The checksum as a number (R165) -/

/-- The complement of a byte is its distance from 255. -/
theorem checksumOf_toNat (s : Bytes) : (checksumOf s).toNat = 255 - (s.map BitVec.toNat).sum % 256 := by
  rw [checksumOf, BitVec.toNat_not, BitVec.toNat_ofNat]

theorem ne_checksumOf_iff (b : Byte) (s : Bytes) :
    b ≠ checksumOf s ↔ b.toNat ≠ 255 - (s.map BitVec.toNat).sum % 256 := by
  rw [← checksumOf_toNat, Ne, ← BitVec.toNat_inj]

/-! ## A body given by its fields (R74, R88) -/

section Body
variable (c : Config) (addr cmd st chk : Byte) (p : Bytes)

@[simp] theorem payloadLength_cons : payloadLength (addr :: cmd :: st :: (p ++ [chk])) = p.length := by
  simp [payloadLength]

/-- The checksum covers every byte but the last. -/
theorem slice_before_checksum (u : Bytes) (hu : u ≠ []) :
    slice (u ++ [chk]) 0 ((u ++ [chk]).length - 2) = u := by
  have pos := List.length_pos_iff.mpr hu
  have covered : (u ++ [chk]).length - 2 + 1 - 0 = u.length := by
    rw [List.length_append, List.length_singleton]
    omega
  rw [slice, List.drop_zero, covered, List.take_left]

theorem lengthFails_cons :
    lengthFails c (addr :: cmd :: st :: (p ++ [chk])) = true ↔ c.lenCheck = true ∧ st.toNat ≠ p.length := by
  simp [lengthFails, bodyFields_cons]

theorem checksumFails_cons :
    checksumFails c (addr :: cmd :: st :: (p ++ [chk])) = true ↔
      c.chkVerify = true ∧
        chk.toNat ≠ 255 - (addr.toNat + cmd.toNat + st.toNat + (p.map BitVec.toNat).sum) % 256 := by
  have covered := slice_before_checksum chk (addr :: cmd :: st :: p) (List.cons_ne_nil _ _)
  simp only [List.cons_append] at covered
  rw [checksumFails, bodyFields_cons, covered, Bool.and_eq_true, decide_eq_true_iff, ne_checksumOf_iff]
  simp only [List.map_cons, List.sum_cons, add_assoc]

/-- A body of its four fixed bytes and a payload that is not empty is long enough (R161). -/
theorem minBody_le_of_payload (hp : p ≠ []) : minBody ≤ (addr :: cmd :: st :: (p ++ [chk])).length := by
  have pos := List.length_pos_iff.mpr hp
  simp only [minBody, List.length_cons, List.length_append, List.length_nil]
  omega

end Body

/-! ## The checks in their order (R160) -/

theorem interpret_of_short (c : Config) {u : Bytes} (h : u.length < minBody) : interpret c u = .error .short := by
  rw [interpret, if_pos h]

theorem interpret_of_long (c : Config) {u : Bytes} (h : minBody ≤ u.length) :
    interpret c u =
      if lengthFails c u = true then .error .length
      else if checksumFails c u = true then .error .checksum
      else .ok (bodyFields u) := by
  rw [interpret, if_neg (Nat.not_lt.mpr h)]

/-- Settles O44: a body under 5 bytes is SHORT; any other is its fields, on which each later check is the comparison of
numbers that R164 and R165 state. -/
theorem interpretChecksInOrder : Obligations.InterpretChecksInOrder := by
  refine ⟨fun c u => interpret_of_short c, fun c addr cmd st chk p hp => ?_⟩
  rw [interpret_of_long c (minBody_le_of_payload addr cmd st chk p hp), bodyFields_cons]
  simp only [lengthFails_cons, checksumFails_cons]

end Sys2Proof.Machine
end

section
/-! PROOF. The measurement payload (R53, R75, R182): a word's four bytes read big-endian are the word, so splitting a
payload into words and writing the words out again undo each other. -/

namespace Sys2Proof.Machine

/-! ## One word as four bytes (R53) -/

@[simp] theorem word32Bytes_length (w : F32) : (word32Bytes w).length = 4 := rfl

theorem bigEndian_four (a b c d : Byte) :
    bigEndian [a, b, c, d] = 2 ^ 24 * a.toNat + 2 ^ 16 * b.toNat + 2 ^ 8 * c.toNat + d.toNat := by
  simp only [bigEndian, List.foldl_cons, List.foldl_nil]
  omega

theorem bigEndian_word32Bytes (w : F32) : bigEndian (word32Bytes w) = w.toNat := by
  rw [word32Bytes, bigEndian_four]
  simp only [BitVec.extractLsb'_toNat, Nat.shiftRight_eq_div_pow]
  have := w.isLt
  omega

theorem word32Bytes_bigEndian {q : Bytes} (h : q.length = 4) : word32Bytes (BitVec.ofNat 32 (bigEndian q)) = q := by
  match q, h with
  | [a, b, c, d], _ =>
    have := a.isLt
    have := b.isLt
    have := c.isLt
    have := d.isLt
    simp only [word32Bytes, bigEndian_four, List.cons.injEq, ← BitVec.toNat_inj, BitVec.extractLsb'_toNat,
      BitVec.toNat_ofNat, Nat.shiftRight_eq_div_pow, and_true]
    omega

/-! ## A payload as its words (R75, R88) -/

theorem flatMap_word32Bytes_length (ws : List F32) : (ws.flatMap word32Bytes).length = 4 * ws.length := by
  induction ws with
  | nil => rfl
  | cons w ws ih =>
    rw [List.flatMap_cons, List.length_append, word32Bytes_length, ih, List.length_cons]
    omega

/-- The four bytes from offset `4 i` on are those of word `i`. -/
theorem flatMap_word32Bytes_at (ws : List F32) (i : Nat) (h : i < ws.length) :
    ((ws.flatMap word32Bytes).drop (4 * i)).take 4 = word32Bytes ws[i] := by
  induction ws generalizing i with
  | nil => exact absurd h (Nat.not_lt_zero i)
  | cons w ws ih =>
    rw [List.flatMap_cons]
    cases i with
    | zero => exact List.take_left' (word32Bytes_length w)
    | succ i =>
      have offset : 4 * (i + 1) = (word32Bytes w).length + 4 * i := by rw [word32Bytes_length]; omega
      rw [offset, List.drop_length_add_append]
      exact ih i (Nat.lt_of_succ_lt_succ h)

theorem measField_flatMap_word32Bytes (ws : List F32) (i : Nat) (h : i < ws.length) :
    measField (ws.flatMap word32Bytes) i = ws[i] := by
  rw [measField, memRead, flatMap_word32Bytes_at ws i h, bigEndian_word32Bytes, BitVec.ofNat_toNat, BitVec.setWidth_eq]

theorem word32Bytes_measField {p : Bytes} {i : Nat} (h : 4 * (i + 1) ≤ p.length) :
    word32Bytes (measField p i) = (p.drop (4 * i)).take 4 := by
  refine word32Bytes_bigEndian ?_
  rw [List.length_take, List.length_drop]
  omega

/-- The first `n` fields written out again are the first `4 n` bytes. -/
theorem flatMap_word32Bytes_measField (p : Bytes) (n : Nat) (h : 4 * n ≤ p.length) :
    (List.range n).flatMap (fun i => word32Bytes (measField p i)) = p.take (4 * n) := by
  induction n with
  | zero => rfl
  | succ n ih =>
    rw [List.range_succ, List.flatMap_append, ih (by omega), List.flatMap_singleton, word32Bytes_measField h,
      Nat.mul_succ, List.take_add]

/-! ## The ten words of a record (R183) -/

theorem Fields.toList_ofFn {α : Type} (f : Nat → α) : (Fields.ofFn f).toList = (List.range 10).map f := rfl

/-- Ten fields made from the list of a record's values are that record. -/
theorem Fields.ofFn_eq_of_toList {α : Type} {r : Fields α} {f : Nat → α}
    (h : ∀ (i : Nat) (hi : i < r.toList.length), f i = r.toList[i]) : Fields.ofFn f = r := by
  have at_index (i : Nat) (hi : i < 10) : f i = r.toList[i]'hi := h i hi
  simp [Fields.ofFn, at_index, Fields.toList]

theorem measPayload_length (r : Record) : (measPayload r).length = measPayloadLen :=
  flatMap_word32Bytes_length r.toList

theorem decode40_measPayload (r : Record) : decode40 (measPayload r) = r :=
  Fields.ofFn_eq_of_toList (measField_flatMap_word32Bytes r.toList)

theorem measPayload_decode40 {p : Bytes} (h : p.length = measPayloadLen) : measPayload (decode40 p) = p := by
  calc measPayload (decode40 p)
      = (List.range 10).flatMap (fun i => word32Bytes (measField p i)) := by
        rw [measPayload, decode40, Fields.toList_ofFn, List.flatMap_map]
    _ = p.take (4 * 10) := flatMap_word32Bytes_measField p 10 (Nat.le_of_eq h.symm)
    _ = p := List.take_of_length_le (Nat.le_of_eq h)

/-- Settles O45: each direction word by word, for any number of words. -/
theorem measPayloadRoundTrip : Obligations.MeasPayloadRoundTrip := fun r =>
  ⟨measPayload_length r, decode40_measPayload r, fun _ h => measPayload_decode40 h⟩

end Sys2Proof.Machine
end

section
/-! PROOF. How the frame of a FW or SERIAL read ends (R185 to R190): the closing FLAG of an accepted body, and the
effect of the decode in these two modes. -/

namespace Sys2Proof.Machine

variable {s : State} {u p : Bytes} {f : Frame}

/-! ## The closing FLAG of an accepted body (R135, R166) -/

/-- What the end of a read leaves of a decode's effect, from the state at the closing flag (R136, R180). -/
structure State.EndsWith (s t : State) (e : DecodeEffect) : Prop where
  armed : t.armed = false
  result : t.result = e.code
  avgValid : t.avgValid = e.avgValid
  avg : t.avg = e.avg
  out : t.out = s.out ++ e.items

/-- An accepted body ends the read with the effect of decoding its payload in the armed mode. -/
theorem exec_flag_of_accepted (inFrame : s.InFrame) (hu : unstuff s.buf = .ok u) (hf : interpret s.cfg u = .ok f) :
    ∃ t, exec .flag s = .next t ∧ s.EndsWith t (decodeEffect s f.payload) := by
  obtain ⟨armed, collecting⟩ := inFrame
  have effect : decodeEffect s.closeFrame f.payload = decodeEffect s f.payload :=
    decodeEffect_congr _ rfl rfl rfl rfl rfl
  refine ⟨s.closeFrame.finishFrame f, ?_, ?_⟩
  · rw [exec_flag_of_armed armed, State.takeFlag_of_collecting collecting,
      State.completeBody_of_interpret_ok (s := s.closeFrame) hu hf]
  · rw [State.finishFrame_eq, effect]
    exact ⟨rfl, rfl, rfl, rfl, rfl⟩

/-! ## FW (R185, R189) -/

theorem decodeEffect_fw_of_length (fw : s.mode = .fw) (h : p.length = fwPayloadLen) :
    decodeEffect s p = ⟨s.avgValid, s.avg, [.fw (fwValues p)], .fwOk⟩ := by
  simp only [decodeEffect, fw, if_pos h]

theorem decodeEffect_fw_of_length_ne (fw : s.mode = .fw) (h : p.length ≠ fwPayloadLen) :
    decodeEffect s p = ⟨s.avgValid, s.avg, [.evt (.result .fwLengthError)], .fwLengthError⟩ := by
  simp only [decodeEffect, fw, if_neg h]

theorem fwValues_seven (b0 b1 b2 b3 b4 b5 b6 : Byte) :
    fwValues [b0, b1, b2, b3, b4, b5, b6] =
      ⟨b0.toInt, b1.toInt, b2.toInt, b3.toInt, b4.toInt, b5.toInt, b6.toInt⟩ := rfl

/-! ## SERIAL (R187, R190) -/

theorem all_isAscii_iff : p.all isAscii = true ↔ ∀ b ∈ p, b.toNat ≤ 0x7F := by
  simp [isAscii]

theorem decodeEffect_serial_of_ascii (serial : s.mode = .serial) (h : ∀ b ∈ p, b.toNat ≤ 0x7F) :
    decodeEffect s p = ⟨s.avgValid, s.avg, [.serial p], .serialOk⟩ := by
  simp only [decodeEffect, serial, if_pos (all_isAscii_iff.mpr h)]

theorem decodeEffect_serial_of_not_ascii (serial : s.mode = .serial) (h : ∃ b ∈ p, 0x7F < b.toNat) :
    decodeEffect s p = ⟨s.avgValid, s.avg, [.evt (.result .encodingError)], .encodingError⟩ := by
  obtain ⟨b, hb, high⟩ := h
  have fails : ¬ p.all isAscii = true := fun all => absurd (all_isAscii_iff.mp all b hb) (Nat.not_le.mpr high)
  simp only [decodeEffect, serial, if_neg fails]

/-! ## BurstState (R222) -/

theorem decodeEffect_keeps_burst (h : s.mode ≠ .meas) (p : Bytes) :
    (decodeEffect s p).avgValid = s.avgValid ∧ (decodeEffect s p).avg = s.avg := by
  cases mode : s.mode with
  | meas => exact absurd mode h
  | fw => simp only [decodeEffect, mode, and_self]
  | serial => simp only [decodeEffect, mode, and_self]

theorem State.EndsWith.sameBurst {t : State} (h : s.EndsWith t (decodeEffect s p)) (mode : s.mode ≠ .meas) :
    s.SameBurst t := by
  obtain ⟨avgValid, avg⟩ := decodeEffect_keeps_burst mode p
  exact ⟨h.avgValid.trans avgValid, h.avg.trans avg⟩

/-! ## The ends of the two reads -/

/-- Settles O47: the effect of the decode on a payload of seven bytes, and on one of any other length. -/
theorem firmwareCompletion : Obligations.FirmwareCompletion := fun s u f inFrame fw hu hf => by
  obtain ⟨t, flag, ends⟩ := exec_flag_of_accepted inFrame hu hf
  refine ⟨t, flag, ends.armed, ends.sameBurst (by simp [fw]), fun b0 b1 b2 b3 b4 b5 b6 seven => ?decoded,
    fun other => ?lengthError⟩
  case decoded =>
    rw [decodeEffect_fw_of_length fw (congrArg List.length seven), seven, fwValues_seven] at ends
    exact ⟨ends.result, ends.out⟩
  case lengthError =>
    rw [decodeEffect_fw_of_length_ne fw other] at ends
    exact ⟨ends.result, ends.out⟩

/-- Settles O48: the effect of the decode on a payload of ASCII bytes, and on one with a byte above 7F; no accepted
payload is empty. -/
theorem serialCompletion : Obligations.SerialCompletion := fun s u f inFrame serial hu hf => by
  obtain ⟨t, flag, ends⟩ := exec_flag_of_accepted inFrame hu hf
  obtain ⟨-, -, nonempty⟩ := interpret_ok hf
  refine ⟨t, flag, ends.armed, ends.sameBurst (by simp [serial]), nonempty, fun ascii => ?decoded,
    fun high => ?encodingError⟩
  case decoded =>
    rw [decodeEffect_serial_of_ascii serial ascii] at ends
    exact ⟨ends.result, ends.out⟩
  case encodingError =>
    rw [decodeEffect_serial_of_not_ascii serial high] at ends
    exact ⟨ends.result, ends.out⟩

end Sys2Proof.Machine
end

section
/-! PROOF. How the frame of a MEAS read ends (R181, R184, R210 to R213, R218): the smoother's items and lanes by the state
of the running average, and the effect of the decode in this mode. -/

namespace Sys2Proof.Machine

variable {s : State} {p : Bytes}

/-! ## The smoother by the registers it reads (R210, R211) -/

/-- A record flushes an average exactly when it starts a burst while there is one (R212). -/
theorem State.flushes_iff (s : State) :
    (s.startsNewBurst && s.avgValid) = true ↔ s.avgValid = true ∧ s.cfg.thresholdTicks < s.elapsed.toNat := by
  rw [Bool.and_eq_true, State.startsNewBurst_iff]
  cases s.avgValid <;> simp

theorem State.smoothItems_eq (s : State) (r : Record) :
    s.smoothItems r =
      (if s.avgValid = true ∧ s.cfg.thresholdTicks < s.elapsed.toNat then [.avg s.avg] else []) ++ [.raw r] := by
  rw [State.smoothItems, if_congr s.flushes_iff rfl rfl]

theorem State.smoothLanes_eq (s : State) (r : Record) :
    s.smoothLanes r =
      if s.avgValid = false ∨ s.cfg.thresholdTicks < s.elapsed.toNat then seedLanes s.cfg.accFormat r
      else extendLanes s.avg r := by
  rw [State.smoothLanes, if_congr s.startsNewBurst_iff rfl rfl]

/-! ## The decode of a measurement payload (R181, R184) -/

theorem decodeEffect_meas_of_length (meas : s.mode = .meas) (h : p.length = measPayloadLen) :
    decodeEffect s p = ⟨true, s.smoothLanes (decode40 p), s.smoothItems (decode40 p), .measOk⟩ := by
  simp only [decodeEffect, meas, measRecord, measEvt, if_pos h, List.nil_append]

theorem decodeEffect_meas_of_length_ne (meas : s.mode = .meas) (h : p.length ≠ measPayloadLen) :
    decodeEffect s p =
      ⟨true, s.smoothLanes zeroRecord, [.evt (.result .payloadLengthMismatch)] ++ s.smoothItems zeroRecord,
        .payloadLengthMismatch⟩ := by
  simp only [decodeEffect, meas, measRecord, measEvt, if_neg h]

/-- A measurement record leaves an average, whatever the payload's length (R212, R213). -/
theorem decodeEffect_meas_avgValid (meas : s.mode = .meas) (p : Bytes) : (decodeEffect s p).avgValid = true := by
  simp only [decodeEffect, meas]

/-! ## The end of the read -/

/-- Settles O46: the effect of the decode on a payload of 40 bytes, and on one of any other length, which smooths the zero
record after the event. -/
theorem measCompletionItemsInOrder : Obligations.MeasCompletionItemsInOrder := by
  intro s u f inFrame meas hu hf lanesWith
  obtain ⟨t, flag, ends⟩ := exec_flag_of_accepted inFrame hu hf
  refine ⟨t, flag, ends.armed, ends.avgValid.trans (decodeEffect_meas_avgValid meas _), fun forty => ?decoded,
    fun other => ?substituted⟩
  case decoded =>
    rw [decodeEffect_meas_of_length meas forty, State.smoothLanes_eq, State.smoothItems_eq] at ends
    exact ⟨ends.result, ends.avg, by rw [ends.out, List.append_assoc]⟩
  case substituted =>
    rw [decodeEffect_meas_of_length_ne meas other, State.smoothLanes_eq, State.smoothItems_eq] at ends
    exact ⟨ends.result, ends.avg, by rw [ends.out, List.append_assoc, List.append_assoc, zeroRecord]⟩

end Sys2Proof.Machine
end

section
/-! PROOF. The drain as repeated core steps (R250), and the events that write the source, the read and the timer: RX,
START_READ, TICK and IO_ERROR (R242, R244 to R246), each by its word, its own action and, where it is stated, the drain
after it. -/

namespace Sys2Proof.Machine

variable {s : State}

/-! ## The drain (R250) -/

/-- The core step of R130 is the meaning of the decoded wire byte. -/
theorem exec_decodeWire_of_armed (h : s.armed = true) (b : Byte) :
    exec (decodeWire b) s = .next (s.coreStep b) := by
  by_cases flag : b = flagByte
  · rw [flag, decodeWire_flag, State.coreStep_flag, exec_flag_of_armed h]
  · rw [decodeWire_data flag, State.coreStep_data flag, exec_data_of_armed h]

/-- One round of the drain, by the meaning of the byte at the head of the source. -/
theorem State.drain_eq_of_exec_head {t : State} {b : Byte} {bs : Bytes} (armed : s.armed = true)
    (head : s.src = b :: bs) (run : exec (decodeWire b) { s with src := bs } = .next t) : s.drain = t.drain := by
  rw [exec_decodeWire_of_armed (s := { s with src := bs }) armed] at run
  injection run with core
  rw [State.drain_cons armed head, core]

/-- Settles O26: one round is a core step, and the loop is done when no read is armed or the source is empty. -/
theorem drainIsRepeatedCoreSteps : Obligations.DrainIsRepeatedCoreSteps :=
  ⟨fun _ _ _ _ => State.drain_eq_of_exec_head,
    fun _ done => done.elim State.drain_of_unarmed State.drain_of_empty,
    State.drain_quiescent⟩

/-! ## RX (R81, R242) -/

theorem decodeEvent_rxWord (b : Byte) : decodeEvent (eventWord 0x01 (b.zeroExtend 24)) = .rx b := by
  have isByte : (b.zeroExtend 24).extractLsb' 8 16 = 0 := by
    rw [operand_high_zero_iff, BitVec.toNat_setWidth_of_le (by decide)]
    exact b.isLt
  rw [decodeEvent_eventWord, if_pos ⟨rfl, isByte⟩, rxByte_zeroExtend]

theorem exec_rx (b : Byte) (s : State) : exec (.rx b) s = .next (s.deliver b) := exec_eq (.rx b) s

theorem apply_rxWord (s : State) (b : Byte) :
    apply s (eventWord 0x01 (b.zeroExtend 24)) = .next (s.deliver b).drain := by
  rw [apply_eq, decodeEvent_rxWord, execState]

/-- Settles O38: RX is `deliver`, which arms no read, so with none armed the drain leaves the byte in the source. -/
theorem rxAppendsToSource : Obligations.RxAppendsToSource := fun s b => by
  refine ⟨decodeEvent_rxWord b, exec_rx b s, apply_rxWord s b, fun unarmed => ?waits⟩
  case waits =>
    rw [apply_rxWord, State.drain_of_unarmed ((s.deliver_armed b).trans unarmed), State.deliver]

/-! ## START_READ (R82, R84, R244) -/

theorem decodeEvent_startMeasWord : decodeEvent 0x02000000 = .startMeas := by decide
theorem decodeEvent_startFwWord : decodeEvent 0x02000001 = .startFw := by decide
theorem decodeEvent_startSerialWord : decodeEvent 0x02000002 = .startSerial := by decide

/-- An instruction whose meaning is `startRead m`, and its word, with no read armed and with one armed. -/
theorem exec_apply_of_startRead {i : Instr} {w : EventWord} {m : Mode} (word : decodeEvent w = i)
    (meaning : execState i s = s.startRead m) :
    (s.armed = false →
      exec i s = .next { s with armed := true, mode := m, elapsed := 0, result := .none } ∧
      apply s w = .next (State.drain { s with armed := true, mode := m, elapsed := 0, result := .none })) ∧
    (s.armed = true → exec i s = .next s ∧ apply s w = .next s.drain) := by
  rw [apply_eq, word, exec_eq, meaning]
  refine ⟨fun unarmed => ?arms, fun armed => ?ignored⟩
  case arms => rw [State.startRead_of_unarmed m unarmed]; exact ⟨rfl, rfl⟩
  case ignored => rw [State.startRead_of_armed m armed]; exact ⟨rfl, rfl⟩

/-- Settles O39: each of the three words decodes to its instruction, whose meaning is `startRead` in its mode. -/
theorem startReadArmsOrIsIgnored : Obligations.StartReadArmsOrIsIgnored := fun _ m =>
  match m with
  | .meas => ⟨decodeEvent_startMeasWord, exec_apply_of_startRead decodeEvent_startMeasWord rfl⟩
  | .fw => ⟨decodeEvent_startFwWord, exec_apply_of_startRead decodeEvent_startFwWord rfl⟩
  | .serial => ⟨decodeEvent_startSerialWord, exec_apply_of_startRead decodeEvent_startSerialWord rfl⟩

/-! ## TICK (R83, R245) -/

theorem decodeEvent_tickWord (n : BitVec 24) : decodeEvent (eventWord 0x03 n) = .tick n := by
  simp [decodeEvent_eventWord]

theorem exec_tick (n : BitVec 24) (s : State) : exec (.tick n) s = .next (s.advance n.toNat) := exec_eq (.tick n) s

/-- Settles O40: TICK is `advance`, whose timer is the saturated sum `sat 32`. -/
theorem tickCountsWhileArmed : Obligations.TickCountsWhileArmed := fun s n => by
  refine ⟨decodeEvent_tickWord n, fun armed => ⟨sat 32 (s.elapsed.toNat + n.toNat), sat_toNat 32 _, ?counts⟩,
    fun unarmed => ?nothing⟩
  case counts => rw [exec_tick, State.advance_of_armed _ armed]
  case nothing => rw [exec_tick, State.advance_of_unarmed _ unarmed]

/-! ## IO_ERROR (R85, R246) -/

theorem decodeEvent_ioErrorWord : decodeEvent 0x04000000 = .ioError := by decide

theorem exec_ioError (s : State) : exec .ioError s = .next s.ioFailure := exec_eq .ioError s

/-- Settles O41: IO_ERROR is `ioFailure`, which ends the read of an armed state and leaves any other as it is. -/
theorem ioErrorEndsTheRead : Obligations.IoErrorEndsTheRead := fun s => by
  refine ⟨decodeEvent_ioErrorWord, rfl, fun armed => ?ends, fun unarmed => ?nothing⟩
  case ends => rw [exec_ioError, State.ioFailure_of_armed armed]
  case nothing => rw [exec_ioError, State.ioFailure_of_unarmed unarmed]

end Sys2Proof.Machine
end

section
/-! PROOF. The encodings (30_encoding.md): an event word and its reading determine each other (R80 to R87, R90), and so
do an instruction of any format and its encoding (R70 to R73, R89). -/

namespace Sys2Proof

open Machine

/-! ## Event words (R80 to R87) -/

/-- A byte operand is RX's byte, zero-extended (R81). -/
theorem encode_rx_rxByte {x : BitVec 24} (h : x.extractLsb' 8 16 = 0) :
    encode (.rx (rxByte x)) = .event (eventWord 0x01 x) := by
  rw [encode, zeroExtend_rxByte ((operand_high_zero_iff x).mp h)]

/-- No row of the decoder loses a bit of the word. -/
theorem encode_decodeEvent (w : EventWord) : encode (decodeEvent w) = .event w := by
  rw [← eventWord_fields w, decodeEvent_eventWord]
  split_ifs with rx meas fw serial tick ioError reset
  case pos => rw [rx.1]; exact encode_rx_rxByte rx.2
  case pos => rw [meas.1, meas.2]; rfl
  case pos => rw [fw.1, fw.2]; rfl
  case pos => rw [serial.1, serial.2]; rfl
  case pos => rw [tick]; rfl
  case pos => rw [ioError.1, ioError.2]; rfl
  case pos => rw [reset.1, reset.2]; rfl
  case neg => rfl

/-- A word read as RESERVED is reserved under its own class and operand (R87). -/
theorem decodeEvent_of_not_defined {op : BitVec 8} {x : BitVec 24} (h : ¬ isDefinedEvent op x = true) :
    decodeEvent (eventWord op x) = .reserved op x := by
  have reserved : (decodeEvent (eventWord op x)).mnemonic = "RESERVED" := by
    rwa [decodeEvent_reserved_iff_not_defined, eventOp_eventWord, eventOperand_eventWord]
  obtain ⟨op', x', read⟩ := Instr.mnemonic_eq_reserved_iff.mp reserved
  have word : eventWord op' x' = eventWord op x := by
    have same := encode_decodeEvent (eventWord op x)
    rw [read] at same
    exact Encoded.event.inj same
  have hop := congrArg eventOp word
  have hx := congrArg eventOperand word
  rw [eventOp_eventWord, eventOp_eventWord] at hop
  rw [eventOperand_eventWord, eventOperand_eventWord] at hx
  rw [read, hop, hx]

/-- RESERVED is the only row of format E with an operand check (R87). -/
theorem Instr.wellFormed_of_event {i : Instr} (event : i.format = .event) (h : i.mnemonic ≠ "RESERVED") :
    i.wellFormed = true := by
  cases i with
  | rx | startMeas | startFw | startSerial | tick | ioError | reset => rfl
  | reserved => exact absurd rfl h
  | flag | data | escTrailing | esc7E | esc7D | esc11 | esc13 | escInvalid | literal => cases event

theorem decodeEvent_wellFormed (w : EventWord) : (decodeEvent w).wellFormed = true := by
  by_cases defined : isDefinedEvent (eventOp w) (eventOperand w) = true
  · have notReserved := mt (decodeEvent_reserved_iff_not_defined w).mp (not_not.mpr defined)
    exact Instr.wellFormed_of_event (decodeEvent_format w) notReserved
  · rw [← eventWord_fields w, decodeEvent_of_not_defined defined, Instr.wellFormed, Bool.not_eq_true',
      Bool.eq_false_iff]
    exact defined

/-- Settles O2: each row's reading keeps the bits its pattern fixes, and RESERVED takes only what no row defines. -/
theorem eventEncodeInvertsDecode : Obligations.EventEncodeInvertsDecode := fun w =>
  ⟨encode_decodeEvent w, decodeEvent_wellFormed w⟩

/-! ## The table's rows as masks (R90) -/

/-- A mask of the bits from k on, below bit 32, keeps the multiple of 2^k at or below a word. -/
theorem word_and_high_mask (w : EventWord) {k : Nat} (hk : k ≤ 32) :
    w.toNat &&& (2 ^ k * (2 ^ (32 - k) - 1)) = 2 ^ k * (w.toNat / 2 ^ k) := by
  have parts := and_high_bits (a := w.toNat / 2 ^ k) (c := 2 ^ (32 - k) - 1) (Nat.mod_lt w.toNat (Nat.two_pow_pos k))
  have high : w.toNat / 2 ^ k < 2 ^ (32 - k) := by
    rw [Nat.div_lt_iff_lt_mul (Nat.two_pow_pos k), ← pow_add, Nat.sub_add_cancel hk]
    exact w.isLt
  rwa [Nat.div_add_mod, Nat.and_two_pow_sub_one_eq_mod, Nat.mod_eq_of_lt high] at parts

theorem word_and_mask_0 (w : EventWord) : w.toNat &&& 0xFFFFFFFF = w.toNat := by
  simpa using word_and_high_mask w (k := 0) (by decide)
theorem word_and_mask_8 (w : EventWord) : w.toNat &&& 0xFFFFFF00 = 2 ^ 8 * (w.toNat / 2 ^ 8) :=
  word_and_high_mask w (k := 8) (by decide)
theorem word_and_mask_24 (w : EventWord) : w.toNat &&& 0xFF000000 = 2 ^ 24 * (w.toNat / 2 ^ 24) :=
  word_and_high_mask w (k := 24) (by decide)

/-- The first row that matches a word, its masks as comparisons of numbers. -/
theorem eventRows_find (w : EventWord) :
    (eventRows.find? (fun r => r.hits w.toNat)).map OpcodeRow.mnemonic = some
      (if 2 ^ 8 * (w.toNat / 2 ^ 8) = 0x01000000 then "RX"
      else if w.toNat = 0x02000000 then "START_MEAS"
      else if w.toNat = 0x02000001 then "START_FW"
      else if w.toNat = 0x02000002 then "START_SERIAL"
      else if 2 ^ 24 * (w.toNat / 2 ^ 24) = 0x03000000 then "TICK"
      else if w.toNat = 0x04000000 then "IO_ERROR"
      else if w.toNat = 0x05000000 then "RESET"
      else "RESERVED") := by
  simp only [eventRows, List.find?_cons, OpcodeRow.hits, word_and_mask_0, word_and_mask_8, word_and_mask_24,
    Nat.and_zero, decide_true]
  split_ifs <;> simp_all

/-- Settles O3: each row's mask and pattern say of the word what the decoder's condition says of its two fields. -/
theorem eventDecodeIsFirstMatchingRow : Obligations.EventDecodeIsFirstMatchingRow := fun w => by
  rw [eventRows_find, ← eventWord_fields w, decodeEvent_eventWord, eventWord_toNat]
  generalize eventOp w = op
  generalize eventOperand w = x
  have rx : 2 ^ 8 * ((op.toNat * 2 ^ 24 + x.toNat) / 2 ^ 8) = 0x01000000 ↔ op = 0x01 ∧ x.extractLsb' 8 16 = 0 := by
    rw [operand_high_zero_iff]
    bv_omega
  have tick : 2 ^ 24 * ((op.toNat * 2 ^ 24 + x.toNat) / 2 ^ 24) = 0x03000000 ↔ op = 0x03 := by bv_omega
  have word (c : BitVec 8) (n : BitVec 24) :
      op.toNat * 2 ^ 24 + x.toNat = c.toNat * 2 ^ 24 + n.toNat ↔ op = c ∧ x = n := by bv_omega
  have meas := word 0x02 0
  have fw := word 0x02 1
  have serial := word 0x02 2
  have ioError := word 0x04 0
  have reset := word 0x05 0
  simp only [BitVec.reduceToNat, Nat.reducePow, Nat.reduceMul, Nat.reduceAdd]
    at rx tick meas fw serial ioError reset ⊢
  simp only [rx, meas, fw, serial, tick, ioError, reset]
  split_ifs <;> rfl

/-! ## Body units (R72, R73, R89) -/

@[simp] theorem encode_escapeUnit (c : Byte) : encode (escapeUnit c) = .body [escByte, c] := by
  unfold escapeUnit
  split_ifs with h7E h7D h11 h13
  case neg => rfl
  all_goals
    subst c
    rfl

theorem escapeUnit_of_not_code {c : Byte} (h : isEscapeCode c = false) : escapeUnit c = .escInvalid c := by
  simp only [isEscapeCode, Bool.or_eq_false_iff, decide_eq_false_iff_not] at h
  obtain ⟨⟨⟨h7E, h7D⟩, h11⟩, h13⟩ := h
  rw [escapeUnit, if_neg h7E, if_neg h7D, if_neg h11, if_neg h13]

/-- The unit `7D c` is a well-formed row of format B, and none of them is ESC_TRAILING. -/
theorem escapeUnit_wellFormed (c : Byte) :
    (escapeUnit c).format = .body ∧ (escapeUnit c).wellFormed = true ∧ escapeUnit c ≠ .escTrailing := by
  unfold escapeUnit
  split_ifs with h7E h7D h11 h13
  case neg => exact ⟨rfl, by simpa [Instr.wellFormed, isEscapeCode] using ⟨⟨⟨h7E, h7D⟩, h11⟩, h13⟩, by simp⟩
  all_goals exact ⟨rfl, rfl, by simp⟩

theorem decode_body_of_unit {s : Bytes} {i : Instr} (h : decodeUnit s = .ok (i, [])) : decode (.body s) = .ok i := by
  simp only [decode, h]

theorem decode_pair (c : Byte) : decode (.body [escByte, c]) = .ok (escapeUnit c) :=
  decode_body_of_unit (decodeUnit_escape c [])

/-- Settles O6: a literal takes one byte, a last 7D one, and any other 7D two. -/
theorem bodyUnitsAreOneOrTwoBytes : Obligations.BodyUnitsAreOneOrTwoBytes := by
  intro x rest
  by_cases hx : x = escByte
  case neg =>
    refine ⟨.literal x, 1, decodeUnit_literal hx rest, rfl, rfl, by simpa [Instr.wellFormed] using hx, by simp [hx], ?_⟩
    simp [hx]
  case pos =>
    subst hx
    match rest with
    | [] => exact ⟨.escTrailing, 1, decodeUnit_trailing, rfl, rfl, rfl, by simp, by simp⟩
    | c :: rest' =>
      obtain ⟨format, wellFormed, notTrailing⟩ := escapeUnit_wellFormed c
      exact ⟨escapeUnit c, 2, decodeUnit_escape c rest', encode_escapeUnit c, format, wellFormed, by simp,
        by simp [notTrailing]⟩

/-! ## All three formats (R70, R90) -/

/-- Settles O1: one case for each row; the body units go through `decodeUnit`, the event words through their fields. -/
theorem decodeInvertsEncode : Obligations.DecodeInvertsEncode := by
  intro i wellFormed
  cases i with
  | flag => rfl
  | data b =>
    have notFlag : b ≠ flagByte := by simpa [Instr.wellFormed] using wellFormed
    rw [encode, decode, decodeWire_data notFlag]
  | escTrailing => exact decode_body_of_unit decodeUnit_trailing
  | esc7E => exact decode_pair 0x5E
  | esc7D => exact decode_pair 0x5D
  | esc11 => exact decode_pair 0x31
  | esc13 => exact decode_pair 0x33
  | escInvalid c =>
    have notCode : isEscapeCode c = false := by simpa [Instr.wellFormed] using wellFormed
    rw [encode, decode_pair, escapeUnit_of_not_code notCode]
  | literal b =>
    have notEsc : b ≠ escByte := by simpa [Instr.wellFormed] using wellFormed
    exact decode_body_of_unit (decodeUnit_literal notEsc [])
  | rx b => rw [encode, decode, decodeEvent_rxWord]
  | startMeas => exact congrArg Except.ok decodeEvent_startMeasWord
  | startFw => exact congrArg Except.ok decodeEvent_startFwWord
  | startSerial => exact congrArg Except.ok decodeEvent_startSerialWord
  | tick n => rw [encode, decode, decodeEvent_tickWord]
  | ioError => exact congrArg Except.ok decodeEvent_ioErrorWord
  | reset => exact congrArg Except.ok decodeEvent_resetWord
  | reserved op x =>
    have notDefined : ¬ isDefinedEvent op x = true := by simpa [Instr.wellFormed] using wellFormed
    rw [encode, decode, decodeEvent_of_not_defined notDefined]

/-- Settles O5: the ten words are closed terms, so each reading is the decoder's own evaluation. -/
theorem sampleWordsDecode : Obligations.SampleWordsDecode := by
  unfold Obligations.SampleWordsDecode
  decide

end Sys2Proof
end

section
/-! PROOF. The unstuffer's failures and its forward transform (R107 to R109, R114, R116), and the body units as
instructions of a standalone call (R101 to R108). -/

namespace Sys2Proof

/-! ## What one byte is sent as (R114) -/

theorem stuffByte_length (x : Byte) : 1 ≤ (stuffByte x).length ∧ (stuffByte x).length ≤ 2 := by
  unfold stuffByte
  split_ifs <;> simp

theorem flagByte_notMem_stuffByte (x : Byte) : flagByte ∉ stuffByte x := by
  unfold stuffByte
  split_ifs with h7E
  case neg => simpa [flagByte, eq_comm] using h7E
  all_goals decide

theorem stuffByte_getLast_ne_escByte (x : Byte) : (stuffByte x).getLast? ≠ some escByte := by
  unfold stuffByte
  split_ifs with h7E h7D
  case neg => simpa [escByte] using h7D
  all_goals decide

theorem flagByte_notMem_stuff (x : Bytes) : flagByte ∉ stuff x := by
  induction x with
  | nil => exact List.not_mem_nil
  | cons b bs ih =>
    rw [stuff_cons, List.mem_append]
    exact not_or.mpr ⟨flagByte_notMem_stuffByte b, ih⟩

theorem stuff_getLast_ne_escByte (x : Bytes) : (stuff x).getLast? ≠ some escByte := by
  induction x with
  | nil => simp
  | cons b bs ih =>
    rw [stuff_cons, List.getLast?_append]
    cases last : (stuff bs).getLast? with
    | none => simpa using stuffByte_getLast_ne_escByte b
    | some y => simpa [last] using ih

theorem stuff_length_le (x : Bytes) : (stuff x).length ≤ 2 * x.length := by
  induction x with
  | nil => simp
  | cons b bs ih =>
    have ⟨_, two⟩ := stuffByte_length b
    rw [stuff_cons, List.length_append, List.length_cons]
    omega

/-- Settles O10: each byte's encoding has the three properties, and concatenation keeps them. -/
theorem stuffedBodyHasNoFlag : Obligations.StuffedBodyHasNoFlag := fun x =>
  ⟨flagByte_notMem_stuff x, stuff_getLast_ne_escByte x, stuff_length_le x⟩

namespace Machine

/-! ## Where a scan fails (R107 to R109) -/

/-- A pair of the table is scanned as one byte, whatever follows it. -/
theorem scanFrom_pair {c : Byte} (h : isEscapeCode c = true) :
    ∃ y, ∀ rest i u, scanFrom (escByte :: c :: rest) i u = scanFrom rest (i + 2) (u ++ [y]) := by
  simp only [isEscapeCode, Bool.or_eq_true, decide_eq_true_iff] at h
  obtain ((rfl | rfl) | rfl) | rfl := h <;> exact ⟨_, fun rest i u => scanFrom_escape _ rest i u⟩

theorem scanFrom_invalid {c : Byte} (h : isEscapeCode c = false) (rest : Bytes) (i : Nat) (u : Bytes) :
    scanFrom (escByte :: c :: rest) i u = .error ⟨.escInvalid, i⟩ := by
  simp only [isEscapeCode, Bool.or_eq_false_iff, decide_eq_false_iff_not] at h
  obtain ⟨⟨⟨h7E, h7D⟩, h11⟩, h13⟩ := h
  rw [scanFrom_escape, if_neg h7E, if_neg h7D, if_neg h11, if_neg h13]

/-- What stands where a scan fails, and its code (R107, R108). -/
def FailsAt (code : Malformed) (left : Bytes) : Prop :=
  (code = .escTrailing ∧ left = [escByte]) ∨
  (code = .escInvalid ∧ ∃ c rest, left = escByte :: c :: rest ∧ isEscapeCode c = false)

/-- A failing scan takes some bytes without failing and fails at the next, whose index it reports. -/
theorem scanFrom_error {r : Bytes} {i : Nat} {u : Bytes} {e : UnstuffError} (h : scanFrom r i u = .error e) :
    ∃ n, e.index = i + n ∧ (∃ v, scanFrom (r.take n) i u = .ok v) ∧ FailsAt e.code (r.drop n) := by
  match r with
  | [] => cases h
  | x :: rest =>
    by_cases hx : x = escByte
    case neg =>
      rw [scanFrom_literal hx] at h
      obtain ⟨n, index, ⟨v, before⟩, fails⟩ := scanFrom_error h
      refine ⟨n + 1, by omega, ⟨v, ?_⟩, fails⟩
      rw [List.take_succ_cons, scanFrom_literal hx, before]
    case pos =>
      subst hx
      cases rest with
      | nil =>
        cases (scanFrom_trailing i u).symm.trans h
        exact ⟨0, rfl, ⟨u, rfl⟩, .inl ⟨rfl, rfl⟩⟩
      | cons c rest' =>
        cases code : isEscapeCode c with
        | false =>
          cases (scanFrom_invalid code rest' i u).symm.trans h
          exact ⟨0, rfl, ⟨u, rfl⟩, .inr ⟨rfl, c, rest', rfl, code⟩⟩
        | true =>
          obtain ⟨y, pair⟩ := scanFrom_pair code
          rw [pair] at h
          obtain ⟨n, index, ⟨v, before⟩, fails⟩ := scanFrom_error h
          refine ⟨n + 2, by omega, ⟨v, ?_⟩, fails⟩
          rw [List.take_succ_cons, List.take_succ_cons, pair, before]
termination_by r.length

/-- Settles O11: the scan from index 0 with no output yet. -/
theorem unstuffErrorIsLowestFailure : Obligations.UnstuffErrorIsLowestFailure := by
  intro s e h
  rw [unstuff_eq] at h
  obtain ⟨n, index, before, fails⟩ := scanFrom_error h
  rw [Nat.zero_add] at index
  rw [index, unstuff_eq]
  exact ⟨before, fails⟩

/-! ## The body units as instructions (R101) -/

/-- The meaning of a row of format B is its unit operation on the standalone call. -/
theorem exec_body {i : Instr} (h : i.format = .body) (s : State) :
    exec i s = .next (s.onScan (fun sc => sc.unit i)) := by
  cases i with
  | escTrailing | esc7E | esc7D | esc11 | esc13 | escInvalid | literal => rfl
  | flag | data | rx | startMeas | startFw | startSerial | tick | ioError | reset | reserved => cases h

theorem Scan.done_of_cons {sc : Scan} {x : Byte} {rest : Bytes} (err : sc.err = none) (left : sc.rest = x :: rest) :
    sc.done = false := by
  simp [Scan.done, err, left]

theorem Scan.produce_pair {sc : Scan} {x c : Byte} {rest : Bytes} (err : sc.err = none)
    (left : sc.rest = x :: c :: rest) (y : Byte) : sc.produce y 2 = ⟨rest, sc.index + 2, sc.u ++ [y], none⟩ := by
  simp [Scan.produce, left, err]

section Call
variable {s : State} {sc : Scan} {rest : Bytes}

theorem exec_unit_of_open {i : Instr} (h : i.format = .body) (call : s.scan = some sc) (isOpen : sc.done = false) :
    exec i s = .next { s with scan := some (sc.unit i) } := by
  rw [exec_body h, State.onScan_of_open call isOpen]

/-- A call at a 7D that is followed by `c`: the unit there, and its meaning. -/
theorem decode_exec_pair (call : s.scan = some sc) (err : sc.err = none) {c : Byte}
    (left : sc.rest = escByte :: c :: rest) :
    decodeUnit sc.rest = .ok (escapeUnit c, rest) ∧
      exec (escapeUnit c) s = .next { s with scan := some (sc.unit (escapeUnit c)) } := by
  obtain ⟨format, -, -⟩ := escapeUnit_wellFormed c
  exact ⟨left ▸ decodeUnit_escape c rest, exec_unit_of_open format call (Scan.done_of_cons err left)⟩

/-- A call at a pair that stands for `y`. -/
theorem decode_exec_producing_pair (call : s.scan = some sc) (err : sc.err = none) {c : Byte}
    (left : sc.rest = escByte :: c :: rest) {y : Byte} (unit : sc.unit (escapeUnit c) = sc.produce y 2) :
    decodeUnit sc.rest = .ok (escapeUnit c, rest) ∧
      exec (escapeUnit c) s = .next { s with scan := some ⟨rest, sc.index + 2, sc.u ++ [y], none⟩ } := by
  rw [← Scan.produce_pair err left y, ← unit]
  exact decode_exec_pair call err left

end Call

/-- Settles O13: the four codes of the escape table, each with the byte its unit produces. -/
theorem pairUnitsProduceTheirByte : Obligations.PairUnitsProduceTheirByte := fun _ _ _ call err =>
  ⟨fun left => decode_exec_producing_pair call err (c := 0x5E) left rfl,
    fun left => decode_exec_producing_pair call err (c := 0x5D) left rfl,
    fun left => decode_exec_producing_pair call err (c := 0x31) left rfl,
    fun left => decode_exec_producing_pair call err (c := 0x33) left rfl⟩

/-- Settles O14: the unit of a byte other than 7D takes that byte and appends it. -/
theorem literalUnitProducesItself : Obligations.LiteralUnitProducesItself := by
  intro s sc x rest call err notEsc left
  refine ⟨left ▸ decodeUnit_literal notEsc rest, ?_⟩
  rw [exec_unit_of_open rfl call (Scan.done_of_cons err left)]
  simp [Scan.unit, Scan.literal, Scan.produce, left, err]

/-- Settles O15: the two failing units, each of which ends the call at its own index. -/
theorem failingUnitsEndTheScan : Obligations.FailingUnitsEndTheScan := by
  refine fun s sc call err => ⟨fun left => ?trailing, fun c rest notCode left => ?invalid⟩
  case trailing =>
    exact ⟨left ▸ decodeUnit_trailing, exec_unit_of_open rfl call (Scan.done_of_cons err left)⟩
  case invalid =>
    have pair := decode_exec_pair call err left
    rwa [escapeUnit_of_not_code notCode] at pair

/-- Settles O16: with no open call a unit's operation is not run. -/
theorem unitsWithoutACallDoNothing : Obligations.UnitsWithoutACallDoNothing := fun s i body returned => by
  rw [exec_body body, State.onScan_of_returned returned]

/-! ## A standalone call, one unit a step (R100, R101) -/

theorem decodeUnit_of_ne_nil {s : Bytes} (h : s ≠ []) : ∃ i rest, decodeUnit s = .ok (i, rest) ∧ i.format = .body := by
  obtain ⟨x, rest, rfl⟩ := List.exists_cons_of_ne_nil h
  obtain ⟨i, n, unit, -, format, -⟩ := bodyUnitsAreOneOrTwoBytes x rest
  exact ⟨i, _, unit, format⟩

theorem Scan.done_eq_false_iff {sc : Scan} : sc.done = false ↔ sc.err = none ∧ sc.rest ≠ [] := by
  simp [Scan.done]

/-- With no event and no core step, a step runs one pass of the loop of R101 in the standalone call. -/
theorem step_of_scan {s : State} {sc : Scan} (noEvent : s.inbox = []) (noCore : s.coreEnabled = false)
    (call : s.scan = some sc) : step s = .next { s with scan := some sc.step } := by
  have fetched := fetch_of_unit noEvent noCore
  cases isOpen : sc.done with
  | true =>
    have returned : s.nextUnit = none := by simp [State.nextUnit, call, isOpen]
    have same : sc.step = sc := by simp [Scan.step, isOpen]
    simp only [step, fetched, returned, same, ← call]
  | false =>
    obtain ⟨-, left⟩ := Scan.done_eq_false_iff.mp isOpen
    obtain ⟨i, rest, unit, format⟩ := decodeUnit_of_ne_nil left
    have next : s.nextUnit = some i := by simp [State.nextUnit, call, isOpen, unit, Except.toOption]
    have pass : sc.step = sc.unit i := by simp [Scan.step, isOpen, unit]
    simp only [step, fetched, next, pass]
    exact exec_unit_of_open format call isOpen

theorem core_run_of_scan {s : State} {sc : Scan} (n : Nat) (noEvent : s.inbox = []) (noCore : s.coreEnabled = false)
    (call : s.scan = some sc) :
    Host.Core.run Sys2Proof.core n s = .next { s with scan := some (sc.run n) } := by
  induction n generalizing s sc with
  | zero => simp only [Host.Core.run, Scan.run, ← call]
  | succ n ih =>
    rw [core_run_succ n (step_of_scan noEvent noCore call)]
    exact ih (s := { s with scan := some sc.step }) noEvent noCore rfl

/-- Settles O12: the steps are the passes of the loop, and as many as the string has bytes are enough. -/
theorem standaloneScanStepsAreUnstuff : Obligations.StandaloneScanStepsAreUnstuff := by
  intro s x noEvent noCore call
  obtain ⟨-, done⟩ := Scan.run_spec x.length x 0 [] (Nat.le_refl _)
  exact ⟨(Scan.start x).run x.length, core_run_of_scan x.length noEvent noCore call, done, rfl⟩

end Machine
end Sys2Proof
end

section
/-! PROOF. What a step runs (R243, R250, R101) and what it keeps of its environment (R20, R35): the rules that the
invariants of a step are derived from. -/

namespace Sys2Proof.Machine

variable {s t : State}

/-! ## What a step runs -/

theorem State.coreEnabled_eq_false_iff : s.coreEnabled = false ↔ s.armed = false ∨ s.src = [] := by
  rw [← Bool.not_eq_true, State.coreEnabled_iff, not_and_or, Bool.not_eq_true, not_not]

theorem step_of_waiting (noEvent : s.inbox = []) (noCore : s.coreEnabled = false) (noUnit : s.nextUnit = none) :
    step s = .next s := by
  simp only [step, fetch_of_unit noEvent noCore, noUnit]

theorem step_of_unit {i : Instr} (noEvent : s.inbox = []) (noCore : s.coreEnabled = false)
    (unit : s.nextUnit = some i) : step s = exec i s := by
  simp only [step, fetch_of_unit noEvent noCore, unit]

theorem State.nextUnit_of_no_call (h : s.scan = none) : s.nextUnit = none := by
  simp only [State.nextUnit, h]

theorem State.nextUnit_of_decodeUnit {sc : Scan} {i : Instr} {rest : Bytes} (call : s.scan = some sc)
    (err : sc.err = none) (unit : decodeUnit sc.rest = .ok (i, rest)) : s.nextUnit = some i := by
  have left : sc.rest ≠ [] := fun nil => by rw [nil] at unit; cases unit
  have isOpen : sc.done = false := Scan.done_eq_false_iff.mpr ⟨err, left⟩
  simp [State.nextUnit, call, isOpen, unit, Except.toOption]

/-- Settles O27: the four places a step looks in, in their order. -/
theorem stepRunsDecodedInstruction : Obligations.StepRunsDecodedInstruction := by
  refine ⟨fun s w ws inbox => ?event, fun s b bs noEvent armed src => ?core,
    fun s sc i rest noEvent idle call err unit => ?unit, fun s noEvent idle noCall => ?wait⟩
  case event => exact ⟨_, exec_eq _ _, step_of_event inbox⟩
  case core => rw [step_of_wire noEvent armed src, exec_decodeWire_of_armed (s := { s with src := bs }) armed]
  case unit =>
    exact step_of_unit noEvent (State.coreEnabled_eq_false_iff.mpr idle) (State.nextUnit_of_decodeUnit call err unit)
  case wait =>
    exact step_of_waiting noEvent (State.coreEnabled_eq_false_iff.mpr idle) (State.nextUnit_of_no_call noCall)

/-- Settles O28: each of the four kinds of step answers a next state. -/
theorem stepNeverStops : Obligations.StepNeverStops := fun s => by
  obtain ⟨w, ws, -, event⟩ | ⟨b, bs, -, -, -, core⟩ | ⟨-, -, i, -, unit⟩ | ⟨-, -, -, wait⟩ := step_cases s
  · exact ⟨_, event⟩
  · exact ⟨_, core⟩
  · exact ⟨_, unit⟩
  · exact ⟨_, wait⟩

/-! ## One induction for every property of a step -/

/-- A property holds after a step when the event's own action establishes it, every core step keeps it, and it does not
depend on the standalone call. -/
theorem step_keeps {P : State → Prop} (h : step s = .next t) (now : P s)
    (event : ∀ w ws, s.inbox = w :: ws → P (execState (decodeEvent w) { s with inbox := ws }))
    (core : ∀ (u : State) (b : Byte) (bs : Bytes), P u → u.armed = true → u.src = b :: bs →
      P ({ u with src := bs }.coreStep b))
    (call : ∀ sc, P { s with scan := sc }) : P t := by
  obtain ⟨w, ws, inbox, e⟩ | ⟨b, bs, -, armed, src, e⟩ | ⟨-, -, i, unit, e⟩ | ⟨-, -, -, e⟩ := step_cases s
  · cases e.symm.trans h
    exact State.drain_induction core _ (event w ws inbox)
  · cases e.symm.trans h
    exact core s b bs now armed src
  · cases e.symm.trans h
    obtain ⟨sc, written⟩ := execState_body (State.nextUnit_format unit) s
    rw [written]
    exact call sc
  · cases e.symm.trans h
    exact now

/-- Settles O32: neither an event's own action nor a core step writes the parameters. -/
theorem stepKeepsConfiguration : Obligations.StepKeepsConfiguration := by
  intro s t h
  refine step_keeps (P := fun u => u.cfg = s.cfg) h rfl (fun w ws _ => ?event) (fun u b bs same _ _ => ?core)
    fun _ => rfl
  case event => exact (execState_event (decodeEvent_format w) { s with inbox := ws }).1
  case core => exact (State.coreStep_same _ b).cfg.trans same

/-- Settles O33: an event's own action and a core step add items at the end, if any. -/
theorem outputOnlyGrows : Obligations.OutputOnlyGrows := by
  intro s t h
  refine step_keeps (P := fun u => ∃ new, u.out = s.out ++ new) h ⟨[], by simp⟩ (fun w ws _ => ?event)
    (fun u b bs grown _ _ => ?core) fun _ => ⟨[], by simp⟩
  case event =>
    obtain ⟨-, -, -, added⟩ := execState_event (decodeEvent_format w) { s with inbox := ws }
    exact added
  case core =>
    obtain ⟨new, before⟩ := grown
    obtain ⟨more, after⟩ := State.coreStep_out { u with src := bs } b
    exact ⟨new ++ more, by rw [after, before, List.append_assoc]⟩

/-! ## The events' own actions (R242 to R248) -/

/-- RX alone writes the source. -/
theorem execState_event_src {i : Instr} (h : i.format = .event) (notRx : ∀ b, i ≠ .rx b) (s : State) :
    (execState i s).src = s.src := by
  cases i with
  | rx b => exact absurd rfl (notRx b)
  | startMeas | startFw | startSerial => simp only [execState, State.startRead]; split <;> rfl
  | tick => simp only [execState, State.advance]; split <;> rfl
  | ioError => simp only [execState, State.ioFailure]; split <;> rfl
  | reset | reserved => rfl
  | flag | data | escTrailing | esc7E | esc7D | esc11 | esc13 | escInvalid | literal => cases h

/-- Settles O43: what no event's own action touches, and that RX alone writes the source. -/
theorem eventsKeepTheEnvironment : Obligations.EventsKeepTheEnvironment := by
  intro s t i event h
  obtain rfl := exec_next_iff.mp h
  obtain ⟨cfg, inbox, scan, out⟩ := execState_event event s
  exact ⟨cfg, inbox, scan, fun notRx => execState_event_src event notRx s, out⟩

/-- What an event other than RESET leaves of the registers that only a frame writes. -/
structure State.SameByEvent (s t : State) : Prop where
  burst : s.SameBurst t
  mfCount : t.mfCount = s.mfCount
  frameCount : t.frameCount = s.frameCount

theorem execState_sameByEvent {i : Instr} (h : i.format = .event) (notReset : i ≠ .reset) (s : State) :
    s.SameByEvent (execState i s) := by
  cases i with
  | reset => exact absurd rfl notReset
  | rx | reserved => exact ⟨⟨rfl, rfl⟩, rfl, rfl⟩
  | startMeas | startFw | startSerial => simp only [execState, State.startRead]; split <;> exact ⟨⟨rfl, rfl⟩, rfl, rfl⟩
  | tick => simp only [execState, State.advance]; split <;> exact ⟨⟨rfl, rfl⟩, rfl, rfl⟩
  | ioError => simp only [execState, State.ioFailure]; split <;> exact ⟨⟨rfl, rfl⟩, rfl, rfl⟩
  | flag | data | escTrailing | esc7E | esc7D | esc11 | esc13 | escInvalid | literal => cases h

/-- While a read is armed START_READ is ignored, so RESET alone writes the mode (R244). -/
theorem execState_mode_of_armed {i : Instr} (h : i.format = .event) (notReset : i ≠ .reset) (armed : s.armed = true) :
    (execState i s).mode = s.mode := by
  cases i with
  | reset => exact absurd rfl notReset
  | rx | reserved => rfl
  | startMeas | startFw | startSerial => rw [execState, State.startRead_of_armed _ armed]
  | tick => rw [execState, State.advance_of_armed _ armed]
  | ioError => rw [execState, State.ioFailure_of_armed armed]
  | flag | data | escTrailing | esc7E | esc7D | esc11 | esc13 | escInvalid | literal => cases h

/-- RESET and IO_ERROR alone end a read by their own action (R246, R247). -/
theorem execState_armed_of_armed {i : Instr} (h : i.format = .event) (notReset : i ≠ .reset) (notIoError : i ≠ .ioError)
    (armed : s.armed = true) : (execState i s).armed = true := by
  cases i with
  | reset => exact absurd rfl notReset
  | ioError => exact absurd rfl notIoError
  | rx | reserved => exact armed
  | startMeas | startFw | startSerial => rw [execState, State.startRead_of_armed _ armed, armed]
  | tick => rw [execState, State.advance_of_armed _ armed, armed]
  | flag | data | escTrailing | esc7E | esc7D | esc11 | esc13 | escInvalid | literal => cases h

theorem State.decodeEvent_ne_reset {w : EventWord} {ws : List EventWord} (notReset : ¬ s.ResetIsNext)
    (inbox : s.inbox = w :: ws) : decodeEvent w ≠ .reset := fun reset =>
  notReset (by simp [inbox, reset])

/-! ## The mode, the counters and BurstState over a step -/

/-- Settles O34: with a read armed no event but RESET writes the mode, and no core step does. -/
theorem modeFixedWhileArmed : Obligations.ModeFixedWhileArmed := by
  intro s t armed notReset h
  refine step_keeps (P := fun u => u.mode = s.mode) h rfl (fun w ws inbox => ?event) (fun u b bs same _ _ => ?core)
    fun _ => rfl
  case event =>
    exact execState_mode_of_armed (s := { s with inbox := ws }) (decodeEvent_format w)
      (State.decodeEvent_ne_reset notReset inbox) armed
  case core => exact (State.coreStep_same _ b).mode.trans same

/-- A core step leaves both counters or counts one up (R31, R33). -/
theorem State.coreStep_counters_le (s : State) (b : Byte) :
    s.mfCount.toNat ≤ (s.coreStep b).mfCount.toNat ∧ s.frameCount.toNat ≤ (s.coreStep b).frameCount.toNat := by
  obtain e | ⟨-, -, e⟩ | ⟨-, -, -, e⟩ | ⟨-, m, e⟩ | ⟨-, u, f, -, -, e⟩ := State.coreStep_cases s b <;> rw [e]
  · exact ⟨Nat.le_refl _, Nat.le_refl _⟩
  · exact ⟨Nat.le_refl _, Nat.le_refl _⟩
  · exact ⟨Nat.le_refl _, Nat.le_refl _⟩
  · exact ⟨le_sat_succ s.mfCount, Nat.le_refl _⟩
  · rw [State.finishFrame_eq]; exact ⟨Nat.le_refl _, le_sat_succ s.frameCount⟩

/-- Settles O59: no event but RESET writes the counters, and core steps only count up. -/
theorem countersNeverDecrease : Obligations.CountersNeverDecrease := by
  intro s t notReset h
  refine step_keeps (P := fun u => s.mfCount.toNat ≤ u.mfCount.toNat ∧ s.frameCount.toNat ≤ u.frameCount.toNat) h
    ⟨Nat.le_refl _, Nat.le_refl _⟩ (fun w ws inbox => ?event) (fun u b bs grown _ _ => ?core)
    fun _ => ⟨Nat.le_refl _, Nat.le_refl _⟩
  case event =>
    have same := execState_sameByEvent (decodeEvent_format w) (State.decodeEvent_ne_reset notReset inbox)
      { s with inbox := ws }
    rw [same.mfCount, same.frameCount]
    exact ⟨Nat.le_refl _, Nat.le_refl _⟩
  case core =>
    obtain ⟨mf, frame⟩ := State.coreStep_counters_le { u with src := bs } b
    exact ⟨grown.1.trans mf, grown.2.trans frame⟩

/-- Outside MEAS mode a core step leaves BurstState (R222). -/
theorem State.coreStep_sameBurst (mode : s.mode ≠ .meas) (b : Byte) : s.SameBurst (s.coreStep b) := by
  obtain e | ⟨-, -, e⟩ | ⟨-, -, -, e⟩ | ⟨-, m, e⟩ | ⟨-, u, f, -, -, e⟩ := State.coreStep_cases s b <;> rw [e]
  · exact ⟨rfl, rfl⟩
  · exact ⟨rfl, rfl⟩
  · exact ⟨rfl, rfl⟩
  · exact ⟨rfl, rfl⟩
  · rw [State.finishFrame_eq]
    exact decodeEffect_keeps_burst (s := s.closeFrame) mode f.payload

theorem step_sameBurst (armed : s.armed = true) (mode : s.mode ≠ .meas) (notReset : ¬ s.ResetIsNext)
    (h : step s = .next t) : s.SameBurst t := by
  suffices kept : t.mode = s.mode ∧ s.SameBurst t from kept.2
  refine step_keeps (P := fun u => u.mode = s.mode ∧ s.SameBurst u) h ⟨rfl, rfl, rfl⟩ (fun w ws inbox => ?event)
    (fun u b bs kept _ _ => ?core) fun _ => ⟨rfl, rfl, rfl⟩
  case event =>
    have word := State.decodeEvent_ne_reset notReset inbox
    exact ⟨execState_mode_of_armed (s := { s with inbox := ws }) (decodeEvent_format w) word armed,
      (execState_sameByEvent (decodeEvent_format w) word { s with inbox := ws }).burst⟩
  case core =>
    obtain ⟨sameMode, valid, lanes⟩ := kept
    obtain ⟨valid', lanes'⟩ := State.coreStep_sameBurst (s := { u with src := bs }) (sameMode ▸ mode) b
    exact ⟨(State.coreStep_same _ b).mode.trans sameMode, valid'.trans valid, lanes'.trans lanes⟩

/-- IO_ERROR, TICK and a reserved word arm no read and leave the source, so they enable no core step. -/
theorem State.Quiescent.execState_of_passive {i : Instr} (quiet : s.Quiescent)
    (passive : i = .ioError ∨ (∃ n, i = .tick n) ∨ ∃ op x, i = .reserved op x) : (execState i s).Quiescent := by
  cases armed : s.armed with
  | false =>
    obtain rfl | ⟨n, rfl⟩ | ⟨op, x, rfl⟩ := passive
    · rwa [execState, State.ioFailure_of_unarmed armed]
    · rwa [execState, State.advance_of_unarmed _ armed]
    · exact quiet
  | true =>
    obtain rfl | ⟨n, rfl⟩ | ⟨op, x, rfl⟩ := passive
    · rw [execState, State.ioFailure_of_armed armed]; exact fun h => nomatch h
    · rw [execState, State.advance_of_armed _ armed]; exact quiet
    · exact quiet

/-- Settles O56: in FW and SERIAL reads no core step touches BurstState; between steps the three events enable none. -/
theorem burstUntouchedOutsideMeas : Obligations.BurstUntouchedOutsideMeas := by
  refine ⟨fun _ _ => step_sameBurst, fun s t w ws quiet inbox passive h => ?_⟩
  cases (step_of_event inbox).symm.trans h
  have notReset : decodeEvent w ≠ .reset := by
    rintro reset
    simp [reset] at passive
  rw [State.drain_of_quiescent (State.Quiescent.execState_of_passive (s := { s with inbox := ws }) quiet passive)]
  exact (execState_sameByEvent (decodeEvent_format w) notReset { s with inbox := ws }).burst

/-! ## No core step is left enabled (R250, R251) -/

/-- Settles O31: an event drains the source; from a quiescent state no core step is taken, and a unit of a standalone
call enables none. -/
theorem stepLeavesNoEnabledCoreStep : Obligations.StepLeavesNoEnabledCoreStep := by
  have event : ∀ s t : State, s.inbox ≠ [] → step s = .next t → t.Quiescent := fun s t waiting h => by
    obtain ⟨w, ws, inbox⟩ := List.exists_cons_of_ne_nil waiting
    cases (step_of_event inbox).symm.trans h
    exact State.drain_quiescent _
  refine ⟨event, fun s t quiet h => ?_⟩
  obtain ⟨w, ws, inbox, -⟩ | ⟨b, bs, -, armed, src, -⟩ | ⟨-, -, i, unit, e⟩ | ⟨-, -, -, e⟩ := step_cases s
  · exact event s t (by simp [inbox]) h
  · cases src.symm.trans (quiet armed)
  · cases e.symm.trans h
    obtain ⟨sc, written⟩ := execState_body (State.nextUnit_format unit) s
    rw [written]
    exact quiet
  · cases e.symm.trans h
    exact quiet

/-! ## How a read ends (R136, R246, R247) -/

/-- The result of a frame in the mode `m` (R136). -/
def Mode.EndsWith (m : Mode) (r : ReadResult) : Prop :=
  (m = .meas ∧ (r = .measOk ∨ r = .payloadLengthMismatch)) ∨
  (m = .fw ∧ (r = .fwOk ∨ r = .fwLengthError)) ∨
  (m = .serial ∧ (r = .serialOk ∨ r = .encodingError))

/-- `t` is after the end of a read that was armed in `s`. -/
def State.ReadEnded (s t : State) : Prop :=
  (s.ResetIsNext ∧ t.result = .none) ∨
  (t.asm = .idle ∧ t.buf = [] ∧ ((s.IoErrorIsNext ∧ t.result = .ioError) ∨ s.mode.EndsWith t.result))

/-- A core step leaves the read armed, or ends it with a code of its mode in IDLE with nothing collected. -/
theorem State.coreStep_readEnded (armed : s.armed = true) (b : Byte) :
    (s.coreStep b).armed = true ∨
    ((s.coreStep b).armed = false ∧ (s.coreStep b).asm = .idle ∧ (s.coreStep b).buf = [] ∧
      s.mode.EndsWith (s.coreStep b).result) := by
  obtain e | ⟨-, -, e⟩ | ⟨-, -, -, e⟩ | ⟨-, m, e⟩ | ⟨-, u, f, -, -, e⟩ := State.coreStep_cases s b <;> rw [e]
  · exact .inl armed
  · exact .inl armed
  · exact .inl armed
  · exact .inl armed
  · rw [State.finishFrame_eq]
    exact .inr ⟨rfl, rfl, rfl, decodeEffect_code s.closeFrame f.payload⟩

theorem step_readEnded (armed : s.armed = true) (h : step s = .next t) :
    (t.armed = true ∧ t.mode = s.mode) ∨ (t.armed = false ∧ s.ReadEnded t) := by
  refine step_keeps (P := fun u => (u.armed = true ∧ u.mode = s.mode) ∨ (u.armed = false ∧ s.ReadEnded u)) h
    (.inl ⟨armed, rfl⟩) (fun w ws inbox => ?event) (fun u b bs before going src => ?core) fun _ => .inl ⟨armed, rfl⟩
  case event =>
    by_cases reset : decodeEvent w = .reset
    · rw [reset]
      exact .inr ⟨rfl, .inl ⟨by simp [inbox, reset], rfl⟩⟩
    by_cases ioError : decodeEvent w = .ioError
    · rw [ioError, execState, State.ioFailure_of_armed (s := { s with inbox := ws }) armed]
      exact .inr ⟨rfl, .inr ⟨rfl, rfl, .inl ⟨by simp [inbox, ioError], rfl⟩⟩⟩
    · exact .inl ⟨execState_armed_of_armed (decodeEvent_format w) reset ioError armed,
        execState_mode_of_armed (s := { s with inbox := ws }) (decodeEvent_format w) reset armed⟩
  case core =>
    obtain ⟨-, mode⟩ | ⟨ended, -⟩ := before
    · obtain on | ⟨off, idle, empty, code⟩ := State.coreStep_readEnded (s := { u with src := bs }) going b
      · exact .inl ⟨on, (State.coreStep_same _ b).mode.trans mode⟩
      · exact .inr ⟨off, .inr ⟨idle, empty, .inr (mode ▸ code)⟩⟩
    · rw [ended] at going; cases going

/-- Settles O35: RESET, IO_ERROR or a frame is what ends the read. -/
theorem readEndsOnlyWithAResult : Obligations.ReadEndsOnlyWithAResult := by
  intro s t armed h unarmed
  obtain ⟨on, -⟩ | ⟨-, ended⟩ := step_readEnded armed h
  · rw [on] at unarmed; cases unarmed
  · exact ended

end Sys2Proof.Machine
end

section
/-! PROOF. The invariant of the block's state (R37 to R39, R28, R30 to R32, R249): the reset state has it, and each
event, each core step, and so every step keeps it. -/

namespace Sys2Proof.Machine

variable {s t : State}

/-! ## The lanes' format (R28) -/

@[simp] theorem Lanes.zero_format (F : AccFormat) : (Lanes.zero F).format = F := by cases F <;> rfl

@[simp] theorem seedLanes_format (F : AccFormat) (r : Record) : (seedLanes F r).format = F := by cases F <;> rfl

@[simp] theorem extendLanes_format (a : Lanes) (r : Record) : (extendLanes a r).format = a.format := by cases a <;> rfl

theorem State.smoothLanes_format (lanes : s.avg.format = s.cfg.accFormat) (r : Record) :
    (s.smoothLanes r).format = s.cfg.accFormat := by
  unfold State.smoothLanes
  split
  · exact seedLanes_format _ r
  · rw [extendLanes_format, lanes]

/-! ## What a decode leaves (R180 to R190) -/

theorem decodeEffect_format (lanes : s.avg.format = s.cfg.accFormat) (p : Bytes) :
    (decodeEffect s p).avg.format = s.cfg.accFormat := by
  cases mode : s.mode with
  | meas => simpa only [decodeEffect, mode] using State.smoothLanes_format lanes _
  | fw | serial => rw [(decodeEffect_keeps_burst (by simp [mode]) p).2, lanes]

/-- Every decode in MEAS mode leaves an average; in the other modes BurstState is what it was. -/
theorem decodeEffect_no_avg (noAvg : s.avgValid = false → s.avg = Lanes.zero s.cfg.accFormat) (p : Bytes)
    (h : (decodeEffect s p).avgValid = false) : (decodeEffect s p).avg = Lanes.zero s.cfg.accFormat := by
  by_cases mode : s.mode = .meas
  · rw [decodeEffect_meas_avgValid mode] at h; cases h
  · obtain ⟨valid, lanes⟩ := decodeEffect_keeps_burst mode p
    rw [lanes]
    exact noAvg (valid.symm.trans h)

theorem smoothItems_ok (lanes : s.avg.format = s.cfg.accFormat) (r : Record) :
    ∀ x ∈ s.smoothItems r, x.Ok s.cfg := by
  intro x hx
  rw [State.smoothItems, List.mem_append, List.mem_singleton] at hx
  obtain flushed | rfl := hx
  · split at flushed
    · obtain rfl := List.mem_singleton.mp flushed
      exact lanes
    · cases flushed
  · trivial

theorem fwValues_ok (c : Config) (p : Bytes) : (Item.fw (fwValues p)).Ok c :=
  ⟨int8_bounds _, int8_bounds _, int8_bounds _, int8_bounds _, int8_bounds _, int8_bounds _, int8_bounds _⟩

/-- An item that reports an error, as every code of the events emitted does. -/
theorem Item.evt_ok {c : Config} {x : Cause} (h : x.responseClass ≠ .noResponse ∧ x.responseClass ≠ .completion) :
    (Item.evt x).Ok c := h

/-- The items of a decode of a payload that a collected body can carry. -/
theorem decodeEffect_items_ok (lanes : s.avg.format = s.cfg.accFormat) {p : Bytes} (nonempty : 1 ≤ p.length)
    (fits : p.length + 4 ≤ s.cfg.maxCollect) : ∀ x ∈ (decodeEffect s p).items, x.Ok s.cfg := by
  intro x hx
  cases mode : s.mode with
  | meas =>
    simp only [decodeEffect, mode, List.mem_append] at hx
    obtain report | smoothed := hx
    · unfold measEvt at report
      split at report
      · cases report
      · obtain rfl := List.mem_singleton.mp report
        exact Item.evt_ok (by decide)
    · exact smoothItems_ok lanes _ x smoothed
  | fw =>
    simp only [decodeEffect, mode, List.mem_singleton] at hx
    split at hx <;> subst hx
    · exact fwValues_ok _ p
    · exact Item.evt_ok (by decide)
  | serial =>
    simp only [decodeEffect, mode, List.mem_singleton] at hx
    split at hx <;> subst hx
    next ascii => exact ⟨nonempty, fits, ascii⟩
    next => exact Item.evt_ok (by decide)

/-! ## What each operation keeps -/

theorem forall_mem_append_items {c : Config} {old new : List Item} (hold : ∀ x ∈ old, x.Ok c)
    (hnew : ∀ x ∈ new, x.Ok c) : ∀ x ∈ old ++ new, x.Ok c := fun x hx =>
  (List.mem_append.mp hx).elim (hold x) (hnew x)

/-- The invariant does not read the source, the inbox or the standalone call. -/
theorem State.Inv.environment (h : s.Inv) (src : Bytes) (inbox : List EventWord) (scan : Option Scan) :
    State.Inv { s with src := src, inbox := inbox, scan := scan } := { h with }

theorem State.Inv.openFrame (h : s.Inv) (armed : s.armed = true) : s.openFrame.Inv :=
  { h with
    collecting_armed := fun _ => armed
    buf_no_flag := List.not_mem_nil
    buf_bound := Nat.zero_le _
    idle_empty := fun _ => rfl }

theorem State.Inv.closeFrame (h : s.Inv) : s.closeFrame.Inv :=
  { h with
    collecting_armed := fun collecting => nomatch collecting
    buf_no_flag := List.not_mem_nil
    buf_bound := Nat.zero_le _
    idle_empty := fun _ => rfl }

theorem State.Inv.memWrite (h : s.Inv) (collecting : s.asm = .collecting) (room : s.buf.length < s.cfg.maxCollect)
    {b : Byte} (notFlag : b ≠ flagByte) : (s.memWrite b).Inv :=
  { h with
    buf_no_flag := by
      rw [State.memWrite_buf, List.mem_append, List.mem_singleton]
      exact not_or.mpr ⟨h.buf_no_flag, notFlag.symm⟩
    buf_bound := by simpa using room
    idle_empty := fun idle => nomatch collecting.symm.trans idle }

theorem State.Inv.raiseMalformed (h : s.Inv) (m : Malformed) : (s.raiseMalformed m).Inv :=
  { h with
    count_last := iff_of_false (sat_succ_ne_zero s.mfCount) (Option.some_ne_none m)
    items := forall_mem_append_items h.items fun x hx => by
      obtain rfl := List.mem_singleton.mp hx
      exact Item.evt_ok ⟨by simp [Cause.responseClass], by simp [Cause.responseClass]⟩ }

theorem State.Inv.finishFrame (h : s.Inv) (idle : s.asm = .idle) {f : Frame} (nonempty : 1 ≤ f.payload.length)
    (fits : f.payload.length + 4 ≤ s.cfg.maxCollect) : (s.finishFrame f).Inv := by
  rw [State.finishFrame_eq]
  exact
    { h with
      collecting_armed := fun collecting => nomatch idle.symm.trans collecting
      lanes_format := decodeEffect_format h.lanes_format f.payload
      no_avg_zero := decodeEffect_no_avg h.no_avg_zero f.payload
      armed_result := fun armed => nomatch armed
      items := forall_mem_append_items h.items (decodeEffect_items_ok h.lanes_format nonempty fits) }

/-- A frame read from a collected body has a payload, and is no longer than the body. -/
theorem payload_fits {u : Bytes} {f : Frame} (bound : s.buf.length ≤ s.cfg.maxCollect) (hu : unstuff s.buf = .ok u)
    (hf : interpret s.cfg u = .ok f) : 1 ≤ f.payload.length ∧ f.payload.length + 4 ≤ s.cfg.maxCollect := by
  obtain ⟨-, length, nonempty⟩ := interpret_ok hf
  have := unstuff_ok_length hu
  omega

theorem State.Inv.coreStep (h : s.Inv) (armed : s.armed = true) (b : Byte) : (s.coreStep b).Inv := by
  obtain e | ⟨-, -, e⟩ | ⟨notFlag, collecting, room, e⟩ | ⟨-, m, e⟩ | ⟨-, u, f, hu, hf, e⟩ :=
    State.coreStep_cases s b <;> rw [e]
  · exact h
  · exact h.openFrame armed
  · exact h.memWrite collecting room notFlag
  · exact h.closeFrame.raiseMalformed m
  · obtain ⟨nonempty, fits⟩ := payload_fits h.buf_bound hu hf
    exact h.closeFrame.finishFrame rfl nonempty fits

theorem State.Inv.startRead (h : s.Inv) (m : Mode) : (s.startRead m).Inv := by
  cases armed : s.armed with
  | true => rwa [State.startRead_of_armed m armed]
  | false =>
    rw [State.startRead_of_unarmed m armed]
    exact { h with collecting_armed := fun _ => rfl, armed_result := fun _ => rfl }

theorem State.Inv.advance (h : s.Inv) (n : Nat) : (s.advance n).Inv := by
  cases armed : s.armed with
  | true => rw [State.advance_of_armed n armed]; exact { h with }
  | false => rwa [State.advance_of_unarmed n armed]

theorem State.Inv.ioFailure (h : s.Inv) : s.ioFailure.Inv := by
  cases armed : s.armed with
  | false => rwa [State.ioFailure_of_unarmed armed]
  | true =>
    rw [State.ioFailure_of_armed armed]
    exact
      { h.closeFrame with
        collecting_armed := fun collecting => nomatch collecting
        armed_result := fun still => nomatch still
        items := forall_mem_append_items h.items fun x hx => by
          obtain rfl := List.mem_singleton.mp hx
          exact Item.evt_ok (by decide) }

/-- Every register at its reset value, under a legal configuration and with the items emitted before. -/
theorem State.Inv.resetRegisters (legal : s.cfg.Legal) (items : ∀ x ∈ s.out, x.Ok s.cfg) : s.resetRegisters.Inv where
  legal := legal
  collecting_armed := fun collecting => nomatch collecting
  buf_no_flag := List.not_mem_nil
  buf_bound := Nat.zero_le _
  idle_empty := fun _ => rfl
  lanes_format := Lanes.zero_format _
  no_avg_zero := fun _ => rfl
  armed_result := fun armed => nomatch armed
  count_last := iff_of_true rfl rfl
  items := items

theorem State.Inv.execState_event (h : s.Inv) {i : Instr} (event : i.format = .event) : (execState i s).Inv := by
  cases i with
  | rx b => exact h.environment (s.src ++ [b]) s.inbox s.scan
  | startMeas | startFw | startSerial => exact h.startRead _
  | tick n => exact h.advance n.toNat
  | ioError => exact h.ioFailure
  | reset => exact State.Inv.resetRegisters h.legal h.items
  | reserved => exact h
  | flag | data | escTrailing | esc7E | esc7D | esc11 | esc13 | escInvalid | literal => cases event

/-! ## The statements -/

/-- The power-on state is its own reset. -/
theorem State.Inv.powerOn {c : Config} (legal : c.Legal) : (State.powerOn c).Inv :=
  State.resetRegisters_powerOn c ▸ State.Inv.resetRegisters (s := State.powerOn c) legal (fun _ hx => nomatch hx)

/-- Settles O29: every register at its reset value, and nothing emitted. -/
theorem resetHasInvariant : Obligations.ResetHasInvariant :=
  ⟨fun _ => State.Inv.powerOn, State.Inv.powerOn (by decide)⟩

/-- Settles O30: each event's own action and each core step keeps the invariant, so the step does. -/
theorem stepKeepsInvariant : Obligations.StepKeepsInvariant := by
  intro s t inv h
  refine step_keeps (P := State.Inv) h inv (fun w ws _ => ?event) (fun u b bs before armed _ => ?core) (fun sc => ?call)
  case event => exact (inv.environment s.src ws s.scan).execState_event (decodeEvent_format w)
  case core => exact (before.environment bs u.inbox u.scan).coreStep armed b
  case call => exact inv.environment s.src s.inbox sc

end Sys2Proof.Machine
end

section
/-! PROOF. The run (R243, R250): the events in order are the fold of `apply`, and single core steps come to the
drain. -/

namespace Sys2Proof.Machine

/-! ## The block does not read the inbox -/

/-- The same block before other events: the inbox is the model's own field (log entry 2). -/
def State.withInbox (s : State) (ws : List EventWord) : State := { s with inbox := ws }

section Inbox
variable (s : State) (ws : List EventWord)

theorem State.finishFrame_withInbox (f : Frame) :
    (s.withInbox ws).finishFrame f = (s.finishFrame f).withInbox ws := by
  have effect : decodeEffect (s.withInbox ws) f.payload = decodeEffect s f.payload :=
    decodeEffect_congr _ rfl rfl rfl rfl rfl
  rw [State.finishFrame_eq, State.finishFrame_eq, effect]
  rfl

theorem State.completeBody_withInbox (body : Bytes) :
    (s.withInbox ws).completeBody body = (s.completeBody body).withInbox ws := by
  have cfg : (s.withInbox ws).cfg = s.cfg := rfl
  unfold State.completeBody
  cases unstuff body with
  | error e => rfl
  | ok u =>
    simp only [cfg]
    cases interpret s.cfg u with
    | error m => rfl
    | ok f => exact State.finishFrame_withInbox s ws f

theorem State.coreStep_withInbox (b : Byte) : (s.withInbox ws).coreStep b = (s.coreStep b).withInbox ws := by
  have asm : (s.withInbox ws).asm = s.asm := rfl
  by_cases flag : b = flagByte
  · rw [flag, State.coreStep_flag, State.coreStep_flag]
    unfold State.takeFlag
    rw [asm]
    cases s.asm with
    | idle => rfl
    | collecting => exact State.completeBody_withInbox s.closeFrame ws s.buf
  · rw [State.coreStep_data flag, State.coreStep_data flag]
    obtain ⟨idle, e⟩ | ⟨collecting, room, e⟩ | ⟨collecting, full, e⟩ := State.takeData_cases s b <;> rw [e]
    · exact State.takeData_of_idle (s := s.withInbox ws) idle b
    · exact State.takeData_of_room (s := s.withInbox ws) collecting room b
    · exact State.takeData_of_full (s := s.withInbox ws) collecting full b

theorem drainBytes_withInbox (l : Bytes) : drainBytes l (s.withInbox ws) = (drainBytes l s).withInbox ws := by
  induction l generalizing s with
  | nil => rfl
  | cons b bs ih =>
    have armed : (s.withInbox ws).armed = s.armed := rfl
    simp only [drainBytes, armed]
    split
    · rw [← ih, ← State.coreStep_withInbox]; rfl
    · rfl

theorem State.drain_withInbox : (s.withInbox ws).drain = s.drain.withInbox ws := drainBytes_withInbox s ws s.src

theorem execState_withInbox {i : Instr} (event : i.format = .event) :
    execState i (s.withInbox ws) = (execState i s).withInbox ws := by
  have armed : (s.withInbox ws).armed = s.armed := rfl
  cases i with
  | rx | reset | reserved => rfl
  | startMeas | startFw | startSerial => simp only [execState, State.startRead, armed]; split <;> rfl
  | tick => simp only [execState, State.advance, armed]; split <;> rfl
  | ioError => simp only [execState, State.ioFailure, armed]; split <;> rfl
  | flag | data | escTrailing | esc7E | esc7D | esc11 | esc13 | escInvalid | literal => cases event

/-- A step with an event next is `apply` of it, with the events after it left in the inbox. -/
theorem step_withInbox_cons (w : EventWord) :
    step (s.withInbox (w :: ws)) = .next ((execState (decodeEvent w) (s.withInbox [])).drain.withInbox ws) := by
  have head : step (s.withInbox (w :: ws)) = .next (execState (decodeEvent w) (s.withInbox ws)).drain :=
    step_of_event rfl
  have other : s.withInbox ws = (s.withInbox []).withInbox ws := rfl
  rw [head, other, execState_withInbox _ _ (decodeEvent_format w), State.drain_withInbox]

end Inbox

theorem State.withInbox_self {s : State} {ws : List EventWord} (h : s.inbox = ws) : s.withInbox ws = s := by
  subst h; rfl

theorem runEvents_cons (s : State) (w : EventWord) (ws : List EventWord) :
    runEvents s (w :: ws) = runEvents (execState (decodeEvent w) s).drain ws := by
  simp only [runEvents, apply_eq]

theorem core_run_withInbox (s : State) (ws : List EventWord) :
    Host.Core.run Sys2Proof.core ws.length (s.withInbox ws) = runEvents (s.withInbox []) ws := by
  induction ws generalizing s with
  | nil => rfl
  | cons w ws ih =>
    have empty : (execState (decodeEvent w) (s.withInbox [])).drain.inbox = [] := by
      obtain ⟨-, -, -, drained, -⟩ := State.drain_same (execState (decodeEvent w) (s.withInbox []))
      obtain ⟨-, own, -⟩ := execState_event (decodeEvent_format w) (s.withInbox [])
      rw [drained, own]
      rfl
    rw [List.length_cons, core_run_succ ws.length (step_withInbox_cons s ws w), ih, State.withInbox_self empty]
    exact (runEvents_cons _ w ws).symm

/-- Settles O36: each step is `apply` of the next word, which does not read the words after it. -/
theorem runIsFoldOfApply : Obligations.RunIsFoldOfApply := core_run_withInbox

/-! ## Single core steps (R250) -/

theorem core_run_source (l : Bytes) {s : State} (src : s.src = l) (noEvent : s.inbox = []) (noCall : s.scan = none) :
    Host.Core.run Sys2Proof.core l.length s = .next s.drain := by
  induction l generalizing s with
  | nil => rw [State.drain_of_empty src]; rfl
  | cons b bs ih =>
    cases armed : s.armed with
    | false =>
      have noCore := State.coreEnabled_eq_false_iff.mpr (.inl armed)
      rw [core_run_of_waiting (step_of_waiting noEvent noCore (State.nextUnit_of_no_call noCall)),
        State.drain_of_unarmed armed]
    | true =>
      have same := State.coreStep_same { s with src := bs } b
      rw [List.length_cons, core_run_succ bs.length (step_of_wire noEvent armed src), State.drain_cons armed src]
      exact ih same.src (same.inbox.trans noEvent) (same.scan.trans noCall)

/-- Settles O37: each step is one round of the drain until the read ends, and then waits. -/
theorem sourceStepsAreTheDrain : Obligations.SourceStepsAreTheDrain := fun _ => core_run_source _ rfl

end Sys2Proof.Machine
end

section
/-! PROOF. The wire bytes as instructions (R130 to R138, R222, R272): what FLAG and DATA leave unchanged, and what an
accepted frame records. -/

namespace Sys2Proof.Machine

variable {s t : State}

/-! ## What a wire byte can do -/

/-- Settles O20: with no read armed the two meanings are guarded off. -/
theorem wireBytesNeedAnArmedRead : Obligations.WireBytesNeedAnArmedRead := by
  intro s i wire unarmed
  cases i with
  | flag | data => rw [exec_eq, execState, State.inRead_of_unarmed unarmed]
  | escTrailing | esc7E | esc7D | esc11 | esc13 | escInvalid | literal => cases wire
  | rx | startMeas | startFw | startSerial | tick | ioError | reset | reserved => cases wire

/-- Every way a wire byte goes: nothing, a frame opened, a byte collected, a malformed body, or a frame accepted. -/
theorem exec_wire_cases {i : Instr} (wire : i.format = .wire) (h : exec i s = .next t) :
    t = s ∨ t = s.openFrame ∨ (∃ b, t = s.memWrite b) ∨ (∃ m, t = s.closeFrame.raiseMalformed m) ∨
      (s.armed = true ∧ ∃ f, t = s.closeFrame.finishFrame f) := by
  cases armed : s.armed with
  | false =>
    cases (wireBytesNeedAnArmedRead s i wire armed).symm.trans h
    exact .inl rfl
  | true =>
    cases i with
    | flag =>
      cases (exec_flag_of_armed armed).symm.trans h
      obtain ⟨-, e⟩ | ⟨-, m, e⟩ | ⟨-, u, f, -, -, e⟩ := State.takeFlag_cases s
      · exact .inr (.inl e)
      · exact .inr (.inr (.inr (.inl ⟨m, e⟩)))
      · exact .inr (.inr (.inr (.inr ⟨rfl, f, e⟩)))
    | data b =>
      cases (exec_data_of_armed armed b).symm.trans h
      obtain ⟨-, e⟩ | ⟨-, -, e⟩ | ⟨-, -, e⟩ := State.takeData_cases s b
      · exact .inl e
      · exact .inr (.inr (.inl ⟨b, e⟩))
      · exact .inr (.inr (.inr (.inl ⟨.overflow, e⟩)))
    | escTrailing | esc7E | esc7D | esc11 | esc13 | escInvalid | literal => cases wire
    | rx | startMeas | startFw | startSerial | tick | ioError | reset | reserved => cases wire

/-! ## What a wire byte leaves unchanged (R138, R222, R272) -/

/-- The frame of a wire byte that takes `s` to `t`. -/
def State.WireKeeps (s t : State) : Prop :=
  s.SameOutside t ∧ t.mode = s.mode ∧ t.elapsed = s.elapsed ∧
  (∃ new, t.out = s.out ++ new ∧ new.length ≤ 3 ∧ (t.armed = s.armed → new.length ≤ 1)) ∧
  (t.armed = s.armed → t.result = s.result ∧ s.SameBurst t ∧ s.SameFrameRegs t) ∧
  (t.armed ≠ s.armed → t.mfCount = s.mfCount ∧ t.mfLast = s.mfLast ∧ t.asm = .idle ∧ t.buf = [])

/-- While the read goes on only the synchronizer, the malformed-frame registers and one item are written. -/
theorem State.wireKeeps_of_goes_on (s : State) (asm : AsmState) (buf : Bytes) (mfCount : BitVec 32)
    (mfLast : Option Malformed) {out new : List Item} (added : out = s.out ++ new) (one : new.length ≤ 1) :
    s.WireKeeps { s with asm := asm, buf := buf, mfCount := mfCount, mfLast := mfLast, out := out } :=
  ⟨⟨rfl, rfl, rfl, rfl⟩, rfl, rfl, ⟨new, added, by omega, fun _ => one⟩,
    fun _ => ⟨rfl, ⟨rfl, rfl⟩, rfl, rfl, rfl, rfl, rfl, rfl⟩, fun ended => absurd rfl ended⟩

/-- A decode emits at most three items: the report of a length, a flushed average, and the record (R61). -/
theorem decodeEffect_items_length (s : State) (p : Bytes) : (decodeEffect s p).items.length ≤ 3 := by
  cases mode : s.mode with
  | meas =>
    have report : (measEvt p).length ≤ 1 := by unfold measEvt; split <;> simp
    have smoothed : (s.smoothItems (measRecord p)).length ≤ 2 := by unfold State.smoothItems; split <;> simp
    simp only [decodeEffect, mode, List.length_append]
    omega
  | fw | serial => simp [decodeEffect, mode]

/-- A frame that ends the read writes what `finishFrame` does, from the closed frame. -/
theorem State.wireKeeps_of_finishFrame (armed : s.armed = true) (f : Frame) :
    s.WireKeeps (s.closeFrame.finishFrame f) := by
  rw [State.finishFrame_eq]
  have ends : ¬ false = s.armed := by simp [armed]
  exact ⟨⟨rfl, rfl, rfl, rfl⟩, rfl, rfl, ⟨_, rfl, decodeEffect_items_length _ _, fun same => absurd same ends⟩,
    fun same => absurd same ends, fun _ => ⟨rfl, rfl, rfl, rfl⟩⟩

/-- Settles O21: of the five ways a wire byte goes, four go on with the read and the fifth ends it. -/
theorem wireBytesKeepTheRest : Obligations.WireBytesKeepTheRest := by
  intro s t i wire h
  obtain rfl | rfl | ⟨b, rfl⟩ | ⟨m, rfl⟩ | ⟨armed, f, rfl⟩ := exec_wire_cases wire h
  · exact State.wireKeeps_of_goes_on _ _ _ _ _ (List.append_nil _).symm (Nat.zero_le 1)
  · exact State.wireKeeps_of_goes_on s .collecting [] _ _ (List.append_nil _).symm (Nat.zero_le 1)
  · exact State.wireKeeps_of_goes_on s _ (s.buf ++ [b]) _ _ (List.append_nil _).symm (Nat.zero_le 1)
  · exact State.wireKeeps_of_goes_on s .idle [] _ (some m) rfl (Nat.le_refl 1)
  · exact State.wireKeeps_of_finishFrame armed f

/-! ## What an accepted frame records (R136, R166) -/

/-- Settles O22: the registers that `finishFrame` writes from the closed frame. -/
theorem acceptedFrameEndsTheRead : Obligations.AcceptedFrameEndsTheRead := by
  rintro s u f ⟨armed, collecting⟩ hu hf
  refine ⟨s.closeFrame.finishFrame f, ?flag, ?registers⟩
  case flag =>
    rw [exec_flag_of_armed armed, State.takeFlag_of_collecting collecting,
      State.completeBody_of_interpret_ok (s := s.closeFrame) hu hf]
  case registers =>
    rw [State.finishFrame_eq]
    exact ⟨rfl, rfl, rfl, sat_toNat 32 _, rfl, rfl, rfl, rfl, plen16_toNat, rfl, rfl, rfl, rfl, rfl, rfl, rfl, rfl⟩

end Sys2Proof.Machine
end

section
/-! PROOF. Frames read from the source (R116, R131 to R135, R140, R142): a body that fits is collected whole and
completed, one byte more overflows, and a measurement frame emits its record. -/

namespace Sys2Proof.Machine

variable {s : State}

/-! ## One byte of the source in a drain (R131 to R134) -/

section Head
variable {b : Byte} {bs : Bytes}

theorem State.drain_open (armed : s.armed = true) (idle : s.asm = .idle) (src : s.src = flagByte :: bs) :
    s.drain = State.drain { s with asm := .collecting, buf := [], src := bs } := by
  rw [State.drain_cons armed src, State.coreStep_flag]
  exact congrArg State.drain (State.takeFlag_of_idle (s := { s with src := bs }) idle)

theorem State.drain_close (inFrame : s.InFrame) (src : s.src = flagByte :: bs) :
    s.drain = (State.completeBody { s with asm := .idle, buf := [], src := bs } s.buf).drain := by
  obtain ⟨armed, collecting⟩ := inFrame
  rw [State.drain_cons armed src, State.coreStep_flag]
  exact congrArg State.drain (State.takeFlag_of_collecting (s := { s with src := bs }) collecting)

theorem State.drain_append (inFrame : s.InFrame) (room : s.buf.length < s.cfg.maxCollect) (notFlag : b ≠ flagByte)
    (src : s.src = b :: bs) : s.drain = State.drain { s with buf := s.buf ++ [b], src := bs } := by
  obtain ⟨armed, collecting⟩ := inFrame
  rw [State.drain_cons armed src, State.coreStep_data notFlag]
  exact congrArg State.drain (State.takeData_of_room (s := { s with src := bs }) collecting room b)

theorem State.drain_overflow (inFrame : s.InFrame) (full : s.cfg.maxCollect ≤ s.buf.length) (notFlag : b ≠ flagByte)
    (src : s.src = b :: bs) :
    s.drain = (State.raiseMalformed { s with asm := .idle, buf := [], src := bs } .overflow).drain := by
  obtain ⟨armed, collecting⟩ := inFrame
  rw [State.drain_cons armed src, State.coreStep_data notFlag]
  exact congrArg State.drain (State.takeData_of_full (s := { s with src := bs }) collecting full b)

end Head

/-- Bytes that are no flag and fit the buffer are collected in order (R133). -/
theorem State.drain_collect (body : Bytes) {rest : Bytes} (inFrame : s.InFrame) (noFlag : flagByte ∉ body)
    (fits : s.buf.length + body.length ≤ s.cfg.maxCollect) (src : s.src = body ++ rest) :
    s.drain = State.drain { s with buf := s.buf ++ body, src := rest } := by
  induction body generalizing s with
  | nil => rw [List.append_nil]; subst src; rfl
  | cons b bs ih =>
    obtain ⟨notFlag, noFlag⟩ := List.ne_and_not_mem_of_not_mem_cons noFlag
    rw [List.length_cons] at fits
    have fits' : (s.buf ++ [b]).length + bs.length ≤ s.cfg.maxCollect := by
      rw [List.length_append, List.length_singleton]
      omega
    calc s.drain
        = State.drain { s with buf := s.buf ++ [b], src := bs ++ rest } :=
          State.drain_append inFrame (by omega) notFlag.symm src
      _ = State.drain { s with buf := s.buf ++ [b] ++ bs, src := rest } :=
          ih (s := { s with buf := s.buf ++ [b], src := bs ++ rest }) inFrame noFlag fits' rfl
      _ = State.drain { s with buf := s.buf ++ b :: bs, src := rest } := by
          rw [List.append_assoc, List.singleton_append]

/-! ## A frame from its opening flag to its closing flag (R71, R116) -/

/-- From IDLE a wire frame that fits is taken from the source and its stuffed body completed in IDLE. -/
theorem State.drain_wireFrame {u rest : Bytes} (armed : s.armed = true) (idle : s.asm = .idle)
    (fits : (stuff u).length ≤ s.cfg.maxCollect) (src : s.src = wireFrame u ++ rest) :
    s.drain = (State.completeBody { s with buf := [], src := rest } (stuff u)).drain := by
  have opening : s.src = flagByte :: (stuff u ++ (flagByte :: rest)) := by simp [src, wireFrame]
  calc s.drain
      = State.drain { s with asm := .collecting, buf := [], src := stuff u ++ (flagByte :: rest) } :=
        State.drain_open armed idle opening
    _ = State.drain { s with asm := .collecting, buf := stuff u, src := flagByte :: rest } :=
        State.drain_collect (s := { s with asm := .collecting, buf := [], src := stuff u ++ (flagByte :: rest) })
          (stuff u) ⟨armed, rfl⟩ (flagByte_notMem_stuff u) (by simpa using fits) rfl
    _ = (State.completeBody { s with asm := .idle, buf := [], src := rest } (stuff u)).drain :=
        State.drain_close (s := { s with asm := .collecting, buf := stuff u, src := flagByte :: rest }) ⟨armed, rfl⟩ rfl
    _ = (State.completeBody { s with buf := [], src := rest } (stuff u)).drain := by rw [← idle]

/-- An accepted frame ends the read, so nothing more is taken from the source. -/
theorem State.drain_finishFrame (s : State) (f : Frame) :
    (s.finishFrame f).drain = s.finishFrame f ∧ (s.finishFrame f).armed = false ∧ (s.finishFrame f).src = s.src := by
  have unarmed : (s.finishFrame f).armed = false := by rw [State.finishFrame_eq]
  exact ⟨State.drain_of_unarmed unarmed, unarmed, by rw [State.finishFrame_eq]⟩

/-- Settles O23: the collected body unstuffs to `u`, and its two outcomes are those of the interpreter. -/
theorem framedBodyIsReadWhole : Obligations.FramedBodyIsReadWhole := by
  intro s u rest armed idle fits src
  rw [State.drain_wireFrame armed idle fits src]
  have unstuffed := unstuffInvertsStuff u
  refine ⟨fun m malformed => ?error, fun f accepted => ?frame⟩
  case error =>
    rw [State.completeBody_of_interpret_error (s := { s with buf := [], src := rest }) unstuffed malformed]
  case frame =>
    rw [State.completeBody_of_interpret_ok (s := { s with buf := [], src := rest }) unstuffed accepted]
    obtain ⟨done, unarmed, left⟩ := State.drain_finishFrame { s with buf := [], src := rest } f
    rw [done]
    exact ⟨rfl, unarmed, left⟩

/-- Settles O25: MAX_COLLECT bytes are collected, and the buffer is full at the next. -/
theorem overlongBodyOverflows : Obligations.OverlongBodyOverflows := by
  intro s body b rest inFrame empty noFlag notFlag length src
  have fits : s.buf.length + body.length ≤ s.cfg.maxCollect := by rw [empty, List.length_nil, length]; omega
  have full : s.cfg.maxCollect ≤ (s.buf ++ body).length := by rw [empty, List.nil_append, length]
  calc s.drain
      = State.drain { s with buf := s.buf ++ body, src := b :: rest } :=
        State.drain_collect body inFrame noFlag fits src
    _ = (State.raiseMalformed { s with asm := .idle, buf := [], src := rest } .overflow).drain :=
        State.drain_overflow (s := { s with buf := s.buf ++ body, src := b :: rest }) inFrame full notFlag rfl
    _ = (State.raiseMalformed { s with asm := .idle, src := rest } .overflow).drain := by rw [← empty]

/-! ## A measurement read from end to end (R140, R181, R210 to R213) -/

theorem measPayload_ne_nil (r : Record) : measPayload r ≠ [] := fun nil => by
  have length := measPayload_length r
  rw [nil] at length
  cases length

/-- With both checks off a body with a payload is a frame. -/
theorem interpret_unchecked {c : Config} (noLength : c.lenCheck = false) (noChecksum : c.chkVerify = false)
    (addr cmd st chk : Byte) {p : Bytes} (hp : p ≠ []) :
    interpret c (addr :: cmd :: st :: (p ++ [chk])) = .ok ⟨addr, cmd, st, p, chk⟩ := by
  rw [interpretChecksInOrder.2 c addr cmd st chk p hp]
  simp [noLength, noChecksum]

/-- The stuffed body of a measurement frame fits every legal MAX_COLLECT (R7). -/
theorem measBody_fits {c : Config} (legal : c.Legal) (r : Record) (addr cmd st chk : Byte) :
    (stuff (addr :: cmd :: st :: (measPayload r ++ [chk]))).length ≤ c.maxCollect := by
  obtain ⟨least, -⟩ := legal
  have twice := stuff_length_le (addr :: cmd :: st :: (measPayload r ++ [chk]))
  simp only [List.length_cons, List.length_append, List.length_nil, measPayload_length, measPayloadLen] at twice
  omega

theorem plen16_measPayload (r : Record) : plen16 (measPayload r).length = 40 := by
  rw [measPayload_length]
  decide

/-- Settles O24: the frame is read whole and accepted, and its end is the effect of decoding its 40 payload bytes. -/
theorem measFrameReadEmitsItsRecord : Obligations.MeasFrameReadEmitsItsRecord := by
  intro s r addr cmd st chk rest legal noLength noChecksum armed idle meas src
  obtain ⟨-, accepted⟩ :=
    framedBodyIsReadWhole s _ rest armed idle (measBody_fits legal r addr cmd st chk) src
  obtain ⟨drained, -, -⟩ :=
    accepted _ (interpret_unchecked noLength noChecksum addr cmd st chk (measPayload_ne_nil r))
  have effect := decodeEffect_meas_of_length (s := { s with buf := [], src := rest }) meas (measPayload_length r)
  rw [decode40_measPayload, State.smoothLanes_eq, State.smoothItems_eq] at effect
  rw [drained, State.finishFrame_eq, effect, plen16_measPayload]
  exact ⟨(List.append_assoc _ _ _).symm, rfl, rfl, rfl, rfl, rfl, rfl, rfl, rfl, rfl, rfl⟩

end Sys2Proof.Machine
end

section
/-! PROOF. The smoother's cases (R210 to R213), the host's register reads (R34, R57, R58) and the cause codes (R270). -/

namespace Sys2Proof.Machine

variable {s : State}

/-! ## The smoother by the state of the average (R210 to R213) -/

theorem State.smooth_of_no_avg (noAvg : s.avgValid = false) (r : Record) :
    s.smooth r = { s with avgValid := true, avg := seedLanes s.cfg.accFormat r, out := s.out ++ [.raw r] } := by
  rw [State.smooth_eq, State.smoothLanes_eq, State.smoothItems_eq, if_pos (.inl noAvg), if_neg (by simp [noAvg]),
    List.nil_append]

theorem State.smooth_of_new_burst (avg : s.avgValid = true) (above : s.cfg.thresholdTicks < s.elapsed.toNat)
    (r : Record) :
    s.smooth r = { s with avg := seedLanes s.cfg.accFormat r, out := s.out ++ [.avg s.avg, .raw r] } := by
  rw [State.smooth_eq, State.smoothLanes_eq, State.smoothItems_eq, if_pos (.inr above), if_pos ⟨avg, above⟩,
    List.singleton_append, ← avg]

theorem State.smooth_of_extend (avg : s.avgValid = true) (within : s.elapsed.toNat ≤ s.cfg.thresholdTicks)
    (r : Record) : s.smooth r = { s with avg := extendLanes s.avg r, out := s.out ++ [.raw r] } := by
  have notAbove := Nat.not_lt.mpr within
  rw [State.smooth_eq, State.smoothLanes_eq, State.smoothItems_eq, if_neg (by simp [avg, notAbove]),
    if_neg (by simp [notAbove]), List.nil_append, ← avg]

/-- No legal threshold reaches the timer's limit (R8, R211). -/
theorem State.startsNewBurst_of_saturated (legal : s.cfg.Legal) (saturated : s.elapsed.toNat = 2 ^ 32 - 1) :
    s.startsNewBurst = true := by
  obtain ⟨-, threshold, -⟩ := legal
  exact (State.startsNewBurst_iff s).mpr (.inr (saturated ▸ threshold))

/-- Settles O49: seed, flush and seed, or extend. -/
theorem smoothByClassification : Obligations.SmoothByClassification :=
  ⟨fun _ r => ⟨fun noAvg => State.smooth_of_no_avg noAvg r, fun avg above => State.smooth_of_new_burst avg above r,
      fun avg within => State.smooth_of_extend avg within r⟩,
    fun _ => State.startsNewBurst_of_saturated⟩

/-! ## The lanes one by one (R42, R183) -/

@[simp] theorem Fields.get_map {α β : Type} (f : α → β) (r : Fields α) (i : Fin 10) :
    (r.map f).get i = f (r.get i) := by
  fin_cases i <;> rfl

@[simp] theorem Fields.get_zipWith {α β γ : Type} (f : α → β → γ) (r : Fields α) (q : Fields β) (i : Fin 10) :
    (r.zipWith f q).get i = f (r.get i) (q.get i) := by
  fin_cases i <;> rfl

/-- Settles O50: seeding and extending are the lane's operation in each lane. -/
theorem lanesAveragedIndependently : Obligations.LanesAveragedIndependently := fun r i =>
  ⟨⟨r, rfl, rfl⟩, ⟨r.map widen64, rfl, Fields.get_map widen64 r i⟩,
    fun a => ⟨_, rfl, Fields.get_zipWith avg2Bits32 a r i⟩,
    fun a => ⟨_, rfl, by rw [Fields.get_zipWith, Fields.get_map]⟩⟩

/-! ## The host's reads (R34) -/

/-- The number of bits of `n` is the least width that holds it. -/
theorem bitLength_le_of_lt_two_pow {n v : Nat} (h : n < 2 ^ v) : bitLength n ≤ v := by
  obtain ⟨-, low⟩ := bitLength_spec n
  by_cases zero : n = 0
  · simp [bitLength, zero]
  · have := (Nat.pow_lt_pow_iff_right (by decide : 1 < 2)).mp ((low zero).trans_lt h)
    omega

theorem bufLenWidth_spec (c : Config) :
    c.maxCollect < 2 ^ bufLenWidth c ∧ ∀ v, c.maxCollect < 2 ^ v → bufLenWidth c ≤ v :=
  ⟨(bitLength_spec c.maxCollect).1, fun _ => bitLength_le_of_lt_two_pow⟩

theorem RegValue.ofBits_ofBool (b : Bool) : RegValue.ofBits (BitVec.ofBool b) = ⟨1, if b then 1 else 0⟩ := by
  cases b <;> rfl

theorem RegValue.ofBits_mode (m : Mode) :
    RegValue.ofBits m.code = ⟨2, match m with | .meas => 0 | .fw => 1 | .serial => 2⟩ := by
  cases m <;> rfl

theorem RegValue.ofBits_asm (a : AsmState) :
    RegValue.ofBits a.code = ⟨1, match a with | .idle => 0 | .collecting => 1⟩ := by
  cases a <;> rfl

/-- Settles O57: each register is its bits, except the five that are encoded and the length in its own width. -/
theorem hostReadsTheRegisters : Obligations.HostReadsTheRegisters := fun s =>
  ⟨RegValue.ofBits_ofBool s.armed, RegValue.ofBits_ofBool s.avgValid, ⟨_, rfl, bufLenWidth_spec s.cfg⟩, rfl, rfl, rfl,
    rfl, rfl, rfl, rfl, rfl, RegValue.ofBits_mode s.mode, RegValue.ofBits_asm s.asm, rfl,
    fun none => by simp only [hostRead, none]; rfl, fun m some => by simp only [hostRead, some]; rfl,
    fun a i lanes => by simp only [hostRead, lanes]; rfl, fun a i lanes => by simp only [hostRead, lanes]; rfl⟩

/-! ## The causes (R270) -/

/-- Every cause, in the order of the table. -/
def allCauses : List Cause :=
  [.result .none, .result .measOk, .result .fwOk, .result .serialOk, .result .payloadLengthMismatch,
    .malformed .short, .malformed .escTrailing, .malformed .escInvalid, .malformed .overflow, .malformed .length,
    .malformed .checksum, .result .encodingError, .result .fwLengthError, .result .ioError]

theorem mem_allCauses (c : Cause) : c ∈ allCauses := by
  rcases c with r | m
  · cases r <;> decide
  · cases m <;> decide

theorem responseClass_of_mem : ∀ c ∈ allCauses, c.responseClass =
    if c.code = 0x00 then .noResponse
    else if c.code.toNat < 0x10 then .completion
    else if c.code.toNat < 0x20 then .substituted
    else if c.code.toNat < 0x30 then .malformedFrame
    else .propagated := by decide

theorem code_injective_of_mem : ∀ a ∈ allCauses, ∀ b ∈ allCauses, a.code = b.code → a = b := by decide

/-- Settles O58: the fourteen rows of the table, which are all the causes there are. -/
theorem causeCodesOfTheTable : Obligations.CauseCodesOfTheTable :=
  ⟨by decide, fun c => responseClass_of_mem c (mem_allCauses c),
    fun a b => code_injective_of_mem a (mem_allCauses a) b (mem_allCauses b)⟩

end Sys2Proof.Machine
end

section
/-! PROOF. The arithmetic's roundings (R16, R217, R219): which magnitudes a format has, that `fl` answers the nearest of
them with ties to the even pattern, where it overflows, and that a rendered lane is the nearest decimal. -/

namespace Sys2Proof.Machine

/-! ## Rounding to an integer -/

/-- The rounded integer is within half a unit, and is even where the half is reached. -/
theorem roundHalfEven_near (n k : Nat) :
    2 * absDiff (roundHalfEven n k * 2 ^ k) n ≤ 2 ^ k ∧
    (2 * absDiff (roundHalfEven n k * 2 ^ k) n = 2 ^ k → roundHalfEven n k % 2 = 0) := by
  have parts := Nat.div_add_mod n (2 ^ k)
  have below := Nat.mod_lt n (Nat.two_pow_pos k)
  have up : (n / 2 ^ k + 1) * 2 ^ k = 2 ^ k * (n / 2 ^ k) + 2 ^ k := by ring
  have down : n / 2 ^ k * 2 ^ k = 2 ^ k * (n / 2 ^ k) := Nat.mul_comm _ _
  unfold absDiff
  obtain ⟨small, e⟩ | ⟨large, e⟩ | ⟨half, even, e | e⟩ := roundHalfEven_cases n k
  · rw [e, down]; omega
  · rw [e, up]; omega
  · rw [e, down]; rw [e] at even; omega
  · rw [e, up]; rw [e] at even; omega

/-- Settles O60: the rendered integer is the lane's value in units of 10^−d, rounded. -/
theorem renderedLaneIsNearestEven : Obligations.RenderedLaneIsNearestEven := by
  intro F bits d
  refine ⟨fun neg m finite => ⟨roundHalfEven (m * 10 ^ d) (minExp F), ?value, roundHalfEven_near _ _⟩,
    fun notFinite => ?none⟩
  case value => simp only [renderLane, finite, signedMag]
  case none =>
    cases datum : unpack F bits with
    | fin neg m => exact absurd datum (notFinite neg m)
    | inf neg => simp only [renderLane, datum]
    | nan => simp only [renderLane, datum]

/-! ## The magnitudes of a format (R16, R76) -/

section Format
variable {F : AccFormat}

theorem one_le_fracBits (F : AccFormat) : 1 ≤ fracBits F := by cases F <;> decide

theorem two_le_expOnes (F : AccFormat) : 2 ≤ expOnes F := by cases F <;> decide

/-- A magnitude with its significand written at full length, or in the subnormal range. -/
theorem exists_normalized {c j : Nat} (h : c < 2 ^ (fracBits F + 1)) :
    ∃ c' j', c' < 2 ^ (fracBits F + 1) ∧ j' ≤ j ∧ c * 2 ^ j = c' * 2 ^ j' ∧ (j' = 0 ∨ 2 ^ fracBits F ≤ c') := by
  induction j generalizing c with
  | zero => exact ⟨c, 0, h, Nat.le_refl 0, rfl, .inl rfl⟩
  | succ j ih =>
    by_cases full : 2 ^ fracBits F ≤ c
    · exact ⟨c, j + 1, h, Nat.le_refl _, rfl, .inr full⟩
    · obtain ⟨c', j', bound, le, same, norm⟩ := ih (c := 2 * c) (by rw [pow_succ]; omega)
      exact ⟨c', j', bound, by omega, by rw [← same]; ring, norm⟩

/-- The fields that a normalized magnitude packs to, and the pattern made of them. -/
theorem packMag_fields {c j : Nat} (h : c < 2 ^ (fracBits F + 1)) (norm : j = 0 ∨ 2 ^ fracBits F ≤ c) :
    ∃ e frac, packMag F (c * 2 ^ j) = e * 2 ^ fracBits F + frac ∧ frac < 2 ^ fracBits F ∧ e ≤ j + 1 ∧
      (if e = 0 then frac else (2 ^ fracBits F + frac) * 2 ^ (e - 1)) = c * 2 ^ j := by
  rw [pow_succ] at h
  by_cases full : 2 ^ fracBits F ≤ c
  · refine ⟨j + 1, c - 2 ^ fracBits F, packMag_normal full (by rw [pow_succ]; exact h), by omega, Nat.le_refl _, ?_⟩
    rw [if_neg (Nat.succ_ne_zero j), Nat.add_sub_cancel' full, Nat.add_sub_cancel]
  · obtain rfl : j = 0 := norm.resolve_right full
    refine ⟨0, c, ?_, by omega, Nat.zero_le _, by simp⟩
    rw [pow_zero, Nat.mul_one, packMag_of_lt (by omega), Nat.zero_mul, Nat.zero_add]

/-- What a significand of the format's precision times a power of two within its range packs to unpacks to it. -/
theorem unpack_pack_of_form {c j : Nat} (neg : Bool) (h : c < 2 ^ (fracBits F + 1)) (hj : j ≤ expOnes F - 2) :
    unpack F (pack F (.fin neg (c * 2 ^ j))) = .fin neg (c * 2 ^ j) := by
  have two := two_le_expOnes F
  obtain ⟨c', j', bound, le, same, norm⟩ := exists_normalized (j := j) h
  obtain ⟨e, frac, packed, fracLt, eLe, value⟩ := packMag_fields bound norm
  rw [same, pack, packed, unpack_fields F neg (by omega) fracLt, value]

/-- The magnitudes of a format are the significands of its precision times the powers of two of its range. -/
theorem representable_iff {m : Nat} :
    Representable F m ↔ ∃ c j, c < 2 ^ (fracBits F + 1) ∧ j ≤ expOnes F - 2 ∧ m = c * 2 ^ j := by
  constructor
  · rintro ⟨bits, neg, datum⟩
    exact unpack_fin_form datum
  · rintro ⟨c, j, hc, hj, rfl⟩
    exact ⟨_, false, unpack_pack_of_form false hc hj⟩

/-- A magnitude of the format is a multiple of `2^d`, unless it is below those for which a unit of `2^d` is the
finest. -/
theorem Representable.dvd_or_lt {m : Nat} (h : Representable F m) (d : Nat) :
    2 ^ d ∣ m ∨ (d ≠ 0 ∧ m < 2 ^ (fracBits F + d)) := by
  obtain ⟨c, j, hc, -, rfl⟩ := representable_iff.mp h
  by_cases coarse : d ≤ j
  · exact .inl (Dvd.dvd.mul_left (pow_dvd_pow 2 coarse) c)
  · refine .inr ⟨by omega, ?_⟩
    calc c * 2 ^ j < 2 ^ (fracBits F + 1) * 2 ^ j := Nat.mul_lt_mul_of_pos_right hc (Nat.two_pow_pos j)
      _ = 2 ^ (fracBits F + 1 + j) := (pow_add ..).symm
      _ ≤ 2 ^ (fracBits F + d) := Nat.pow_le_pow_right (by decide) (by omega)

/-! ## What rounding to the precision answers (R16) -/

/-- The exact magnitude `n / 2^k` cut to the precision: `q` whole units of `2^d` ulps. Where bits are dropped the first
bit of `q` is set. -/
theorem quotient_bounds (F : AccFormat) (n k : Nat) :
    n / 2 ^ (dropBits F n k + k) < 2 ^ (fracBits F + 1) ∧
    (dropBits F n k ≠ 0 → 2 ^ fracBits F ≤ n / 2 ^ (dropBits F n k + k)) := by
  obtain ⟨high, low⟩ := bitLength_spec n
  constructor
  · rw [Nat.div_lt_iff_lt_mul (Nat.two_pow_pos _), ← pow_add]
    exact high.trans_le (Nat.pow_le_pow_right (by decide) (by unfold dropBits; omega))
  · intro drops
    have nonzero : n ≠ 0 := by
      rintro rfl
      simp [dropBits, bitLength] at drops
    rw [Nat.le_div_iff_mul_le (Nat.two_pow_pos _), ← pow_add]
    exact (Nat.pow_le_pow_right (by decide) (by unfold dropBits at *; omega)).trans (low nonzero)

/-- The rounded significand has the precision's bits, or is the power of two just above them. -/
theorem roundHalfEven_le (F : AccFormat) (n k : Nat) :
    roundHalfEven n (dropBits F n k + k) ≤ 2 ^ (fracBits F + 1) ∧
    (dropBits F n k ≠ 0 → 2 ^ fracBits F ≤ roundHalfEven n (dropBits F n k + k)) := by
  obtain ⟨high, low⟩ := quotient_bounds F n k
  obtain ⟨-, e⟩ | ⟨-, e⟩ | ⟨-, -, e | e⟩ := roundHalfEven_cases n (dropBits F n k + k) <;> rw [e]
  all_goals exact ⟨by omega, fun drops => by have := low drops; omega⟩

theorem maxMag_eq (F : AccFormat) :
    maxMag F + 2 ^ (expOnes F - 2) = 2 ^ (fracBits F + 1) * 2 ^ (expOnes F - 2) := by
  have := Nat.two_pow_pos (fracBits F + 1)
  rw [maxMag, ← Nat.succ_mul, Nat.succ_eq_add_one, Nat.sub_add_cancel this]

/-- A significand of at most the full precision times a power of two is a magnitude of the format when it is no larger
than the largest. -/
theorem representable_of_le_maxMag {q d : Nat} (hq : q ≤ 2 ^ (fracBits F + 1)) (full : d ≠ 0 → 2 ^ fracBits F ≤ q)
    (le : q * 2 ^ d ≤ maxMag F) : Representable F (q * 2 ^ d) := by
  have top := maxMag_eq F
  have ulp := Nat.two_pow_pos (expOnes F - 2)
  have inRange {c j : Nat} (hc : 2 ^ fracBits F ≤ c) (h : c * 2 ^ j ≤ maxMag F) : j ≤ expOnes F - 2 := by
    have lt : 2 ^ (fracBits F + j) < 2 ^ (fracBits F + 1 + (expOnes F - 2)) :=
      calc 2 ^ (fracBits F + j) = 2 ^ fracBits F * 2 ^ j := pow_add ..
        _ ≤ c * 2 ^ j := Nat.mul_le_mul_right _ hc
        _ < 2 ^ (fracBits F + 1) * 2 ^ (expOnes F - 2) := by omega
        _ = 2 ^ (fracBits F + 1 + (expOnes F - 2)) := (pow_add ..).symm
    have := (Nat.pow_lt_pow_iff_right (by decide : 1 < 2)).mp lt
    omega
  apply representable_iff.mpr
  obtain lt | rfl := hq.lt_or_eq
  · refine ⟨q, d, lt, ?_, rfl⟩
    by_cases zero : d = 0
    · omega
    · exact inRange (full zero) le
  · have shift : 2 ^ (fracBits F + 1) * 2 ^ d = 2 ^ fracBits F * 2 ^ (d + 1) := by ring
    rw [shift] at le ⊢
    exact ⟨_, _, Nat.pow_lt_pow_right (by decide) (Nat.lt_succ_self _), inRange (Nat.le_refl _) le, rfl⟩

/-- An even rounded significand gives an even pattern: the power of two above the precision starts a new exponent. -/
theorem packMag_even {q d : Nat} (hq : q ≤ 2 ^ (fracBits F + 1)) (full : d ≠ 0 → 2 ^ fracBits F ≤ q)
    (even : q % 2 = 0) : packMag F (q * 2 ^ d) % 2 = 0 := by
  obtain ⟨half, power⟩ : ∃ h, 2 ^ fracBits F = 2 * h :=
    ⟨2 ^ (fracBits F - 1), by rw [← pow_succ', Nat.sub_add_cancel (one_le_fracBits F)]⟩
  have evenField (e : Nat) : e * 2 ^ fracBits F % 2 = 0 := by
    rw [power, Nat.mul_left_comm]
    exact Nat.mul_mod_right 2 _
  obtain lt | rfl := hq.lt_or_eq
  · by_cases normal : 2 ^ fracBits F ≤ q
    · rw [packMag_normal normal lt]
      have := evenField (d + 1)
      omega
    · obtain rfl : d = 0 := by by_contra drops; exact normal (full drops)
      rwa [pow_zero, Nat.mul_one, packMag_of_lt (by omega)]
  · have shift : 2 ^ (fracBits F + 1) * 2 ^ d = 2 ^ fracBits F * 2 ^ (d + 1) := by ring
    rw [shift, packMag_normal (Nat.le_refl _) (Nat.pow_lt_pow_right (by decide) (Nat.lt_succ_self _)), Nat.sub_self]
    exact evenField (d + 1 + 1)

/-- A multiple of the unit is no nearer than the rounded one; one as near, other than it, makes a tie, which is even. -/
theorem roundHalfEven_nearest (n k c : Nat) :
    absDiff (roundHalfEven n k * 2 ^ k) n ≤ absDiff (c * 2 ^ k) n ∧
    (c ≠ roundHalfEven n k → absDiff (c * 2 ^ k) n = absDiff (roundHalfEven n k * 2 ^ k) n →
      roundHalfEven n k % 2 = 0) := by
  obtain ⟨near, tie⟩ := roundHalfEven_near n k
  have pos := Nat.two_pow_pos k
  generalize roundHalfEven n k = q at *
  generalize 2 ^ k = unit at *
  unfold absDiff at *
  obtain lt | rfl | gt := Nat.lt_trichotomy c q
  · have : (c + 1) * unit ≤ q * unit := Nat.mul_le_mul_right _ lt
    rw [Nat.add_mul] at this
    omega
  · exact ⟨Nat.le_refl _, fun ne => absurd rfl ne⟩
  · have : (q + 1) * unit ≤ c * unit := Nat.mul_le_mul_right _ gt
    rw [Nat.add_mul] at this
    omega

/-- A magnitude below the first one of the unit's range is farther than the rounded one. -/
theorem absDiff_lt_of_below {n k c x : Nat} (hx : x < c * 2 ^ k) (hc : c ≤ n / 2 ^ k) :
    absDiff (roundHalfEven n k * 2 ^ k) n < absDiff x n := by
  have le : c * 2 ^ k ≤ n := (Nat.mul_le_mul_right _ hc).trans (Nat.div_mul_le_self n _)
  obtain ⟨nearest, -⟩ := roundHalfEven_nearest n k c
  unfold absDiff at *
  omega

/-- An even number of units is reached from half a unit below it on. -/
theorem le_roundHalfEven_iff {n k c : Nat} (even : c % 2 = 0) :
    c ≤ roundHalfEven n k ↔ (2 * c - 1) * 2 ^ k ≤ 2 * n := by
  obtain ⟨near, tie⟩ := roundHalfEven_near n k
  have units := Nat.two_pow_pos k
  rw [Nat.sub_mul, Nat.one_mul, Nat.mul_assoc]
  generalize roundHalfEven n k = q at *
  generalize 2 ^ k = unit at *
  unfold absDiff at *
  constructor
  · intro reached
    have := Nat.mul_le_mul_right unit reached
    omega
  · intro high
    by_contra below
    have le : (q + 1) * unit ≤ c * unit := Nat.mul_le_mul_right _ (by omega)
    rw [Nat.add_mul] at le
    have same : (q + 1) * unit = c * unit := by rw [Nat.add_mul]; omega
    have := Nat.eq_of_mul_eq_mul_right units same
    omega

end Format

/-! ## `fl_F` (R16, R217) -/

section Rounding
variable {F : AccFormat} (n k : Nat)

theorem representable_roundMag (le : roundMag F n k ≤ maxMag F) : Representable F (roundMag F n k) := by
  obtain ⟨high, full⟩ := roundHalfEven_le F n k
  exact representable_of_le_maxMag high full le

/-- No magnitude of the format is nearer than the rounded one, and one as near makes the rounded one's pattern even. -/
theorem roundMag_nearest {m' : Nat} (h : Representable F m') :
    absDiff (roundMag F n k * 2 ^ k) n ≤ absDiff (m' * 2 ^ k) n ∧
    (m' ≠ roundMag F n k → absDiff (m' * 2 ^ k) n = absDiff (roundMag F n k * 2 ^ k) n →
      packMag F (roundMag F n k) % 2 = 0) := by
  obtain ⟨-, low⟩ := quotient_bounds F n k
  obtain ⟨high, full⟩ := roundHalfEven_le F n k
  unfold roundMag
  generalize dropBits F n k = d at *
  have units (c : Nat) : c * 2 ^ d * 2 ^ k = c * 2 ^ (d + k) := by rw [pow_add, Nat.mul_assoc]
  rw [units]
  obtain ⟨c, rfl⟩ | ⟨drops, below⟩ := h.dvd_or_lt d
  · rw [Nat.mul_comm (2 ^ d) c, units]
    obtain ⟨nearest, tie⟩ := roundHalfEven_nearest n (d + k) c
    exact ⟨nearest, fun ne same => packMag_even high full (tie (fun e => ne (by rw [e])) same)⟩
  · have small : m' * 2 ^ k < 2 ^ fracBits F * 2 ^ (d + k) := by
      rw [← units, ← pow_add]
      exact Nat.mul_lt_mul_of_pos_right below (Nat.two_pow_pos k)
    have farther := absDiff_lt_of_below small (low drops)
    exact ⟨farther.le, fun _ same => absurd same.symm farther.ne⟩

/-- In units of `2^e` with `e` the top exponent: 2^(precision) of them are past the largest finite magnitude. -/
theorem maxMag_lt_iff (q : Nat) : maxMag F < q * 2 ^ (expOnes F - 2) ↔ 2 ^ (fracBits F + 1) ≤ q := by
  have top := maxMag_eq F
  have units := Nat.two_pow_pos (expOnes F - 2)
  constructor
  · intro past
    by_contra below
    have le : (q + 1) * 2 ^ (expOnes F - 2) ≤ 2 ^ (fracBits F + 1) * 2 ^ (expOnes F - 2) :=
      Nat.mul_le_mul_right _ (by omega)
    rw [Nat.add_mul] at le
    omega
  · intro reached
    have := Nat.mul_le_mul_right (2 ^ (expOnes F - 2)) reached
    omega

/-- The overflow threshold: half a unit of the last place above the largest finite magnitude, in half ulps (R16). -/
def overflowAt (F : AccFormat) : Nat := (2 ^ (fracBits F + 2) - 1) * 2 ^ (expOnes F - 2)

theorem overflowAt_bounds (F : AccFormat) :
    2 ^ (fracBits F + 1) * 2 ^ (expOnes F - 2) ≤ overflowAt F ∧
    overflowAt F ≤ 2 * (2 ^ (fracBits F + 1) * 2 ^ (expOnes F - 2)) := by
  have twice : 2 ^ (fracBits F + 2) = 2 * 2 ^ (fracBits F + 1) := pow_succ' ..
  have pos := Nat.two_pow_pos (fracBits F + 1)
  rw [overflowAt, ← Nat.mul_assoc]
  exact ⟨Nat.mul_le_mul_right _ (by omega), Nat.mul_le_mul_right _ (by omega)⟩

/-- Below the top exponent neither the rounded magnitude nor the exact one comes near the largest finite one. -/
theorem roundMag_of_low (low : dropBits F n k < expOnes F - 2) :
    roundMag F n k ≤ maxMag F ∧ 2 * n < overflowAt F * 2 ^ k := by
  obtain ⟨quotient, -⟩ := quotient_bounds F n k
  obtain ⟨high, -⟩ := roundHalfEven_le F n k
  obtain ⟨least, -⟩ := overflowAt_bounds F
  have top := maxMag_eq F
  have scale : 2 * (2 ^ (fracBits F + 1) * 2 ^ dropBits F n k) ≤ 2 ^ (fracBits F + 1) * 2 ^ (expOnes F - 2) := by
    rw [Nat.mul_left_comm, ← pow_succ']
    exact Nat.mul_le_mul_left _ (Nat.pow_le_pow_right (by decide) low)
  constructor
  · have units : 2 ^ (expOnes F - 2) * 2 ≤ 2 ^ (expOnes F - 2) * 2 ^ (fracBits F + 1) :=
      Nat.mul_le_mul_left _ (Nat.le_self_pow (Nat.succ_ne_zero _) 2)
    rw [Nat.mul_comm _ (2 ^ (fracBits F + 1))] at units
    have := Nat.mul_le_mul_right (2 ^ dropBits F n k) high
    unfold roundMag
    omega
  · rw [Nat.div_lt_iff_lt_mul (Nat.two_pow_pos _), pow_add _ (dropBits F n k), ← Nat.mul_assoc] at quotient
    have := Nat.mul_le_mul_right (2 ^ k) (scale.trans least)
    rw [Nat.mul_assoc] at this
    omega

/-- Above the top exponent both the rounded magnitude and the exact one are past the largest finite one. -/
theorem roundMag_of_high (high : expOnes F - 2 < dropBits F n k) :
    maxMag F < roundMag F n k ∧ overflowAt F * 2 ^ k ≤ 2 * n := by
  have drops : dropBits F n k ≠ 0 := by omega
  have quotient := (quotient_bounds F n k).2 drops
  have full := (roundHalfEven_le F n k).2 drops
  obtain ⟨-, most⟩ := overflowAt_bounds F
  have top := maxMag_eq F
  have units := Nat.two_pow_pos (expOnes F - 2)
  have scale : 2 ^ (fracBits F + 1) * 2 ^ (expOnes F - 2) ≤ 2 ^ fracBits F * 2 ^ dropBits F n k := by
    rw [← pow_add, ← pow_add]
    exact Nat.pow_le_pow_right (by decide) (by omega)
  constructor
  · have := Nat.mul_le_mul_right (2 ^ dropBits F n k) full
    unfold roundMag
    omega
  · rw [Nat.le_div_iff_mul_le (Nat.two_pow_pos _), pow_add, ← Nat.mul_assoc] at quotient
    have := Nat.mul_le_mul_right (2 ^ k) (most.trans (Nat.mul_le_mul_left 2 scale))
    rw [Nat.mul_assoc 2] at this
    omega

/-- The rounded magnitude passes the largest finite one exactly where the exact one reaches the threshold. -/
theorem maxMag_lt_roundMag_iff : maxMag F < roundMag F n k ↔ overflowAt F * 2 ^ k ≤ 2 * n := by
  obtain lt | top | gt := Nat.lt_trichotomy (dropBits F n k) (expOnes F - 2)
  · obtain ⟨finite, below⟩ := roundMag_of_low n k lt
    omega
  · have even : 2 ^ (fracBits F + 1) % 2 = 0 := by rw [pow_succ]; exact Nat.mul_mod_left _ 2
    rw [roundMag, top, maxMag_lt_iff, le_roundHalfEven_iff even, ← pow_succ', pow_add _ (expOnes F - 2),
      ← Nat.mul_assoc, overflowAt]
  · obtain ⟨infinite, above⟩ := roundMag_of_high n k gt
    exact iff_of_true infinite above

end Rounding

/-- Settles O51: a finite answer is the rounded magnitude, and the answer is infinite past the largest finite one. -/
theorem roundingIsToNearestEven : Obligations.RoundingIsToNearestEven := by
  intro F neg n k
  have overflow := maxMag_lt_roundMag_iff (F := F) n k
  unfold fl
  split
  next infinite =>
    have above := overflow.mp infinite
    exact ⟨fun _ _ fin => (nomatch fin), fun _ => rfl, fun below => absurd above (Nat.not_le.mpr below)⟩
  next finite =>
    refine ⟨fun neg' m fin => ?nearest, fun above => absurd (overflow.mpr above) finite, fun _ => ⟨_, rfl⟩⟩
    cases fin
    exact ⟨rfl, representable_roundMag n k (Nat.not_lt.mp finite), fun m' => roundMag_nearest n k⟩

end Sys2Proof.Machine
end

section
/-! PROOF. Patterns and data (R76, R214 to R216): packing and unpacking undo each other, so `avg2` and `widen` on
patterns are those on what the patterns stand for. -/

namespace Sys2Proof.Machine

/-! ## The fields of a pattern (R76) -/

section Pattern
variable {F : AccFormat}

/-- The width of a pattern. -/
def patternBits (F : AccFormat) : Nat := fracBits F + expBits F + 1

/-- A pattern is its sign, its exponent field and its fraction field. -/
theorem pattern_fields {x : Nat} (h : x < 2 ^ patternBits F) :
    signBit F (x.testBit (fracBits F + expBits F)) +
      (x / 2 ^ fracBits F % 2 ^ expBits F * 2 ^ fracBits F + x % 2 ^ fracBits F) = x := by
  have sign : x / 2 ^ (fracBits F + expBits F) < 2 := by
    rwa [Nat.div_lt_iff_lt_mul (Nat.two_pow_pos _), ← pow_succ']
  have low : x % 2 ^ (fracBits F + expBits F) =
      x / 2 ^ fracBits F % 2 ^ expBits F * 2 ^ fracBits F + x % 2 ^ fracBits F := by
    rw [pow_add, Nat.mod_mul, Nat.add_comm, Nat.mul_comm (2 ^ fracBits F)]
  have parts := Nat.div_add_mod x (2 ^ (fracBits F + expBits F))
  rw [Nat.testBit_eq_decide_div_mod_eq, Nat.mod_eq_of_lt sign, ← low, signBit]
  obtain zero | one := Nat.le_one_iff_eq_zero_or_eq_one.mp (Nat.lt_succ_iff.mp sign)
  · rw [zero] at parts ⊢
    simpa using parts
  · rw [one] at parts ⊢
    simpa using parts

theorem pack_unpack {x : Nat} (h : x < 2 ^ patternBits F) (notNaN : unpack F x ≠ .nan) : pack F (unpack F x) = x := by
  have fields := pattern_fields h
  have fraction := Nat.mod_lt x (Nat.two_pow_pos (fracBits F))
  revert notNaN
  simp only [unpack]
  generalize x.testBit (fracBits F + expBits F) = neg at *
  generalize x / 2 ^ fracBits F % 2 ^ expBits F = e at *
  generalize x % 2 ^ fracBits F = frac at *
  split_ifs with ones zero subnormal
  · intro _
    rw [pack, ← ones]
    omega
  · exact fun nan => absurd rfl nan
  · intro _
    rw [pack, packMag_of_lt fraction]
    simpa [subnormal] using fields
  · intro _
    have full : 2 ^ fracBits F + frac < 2 ^ (fracBits F + 1) := by rw [pow_succ]; omega
    rwa [pack, packMag_normal (Nat.le_add_right _ _) full, Nat.sub_add_cancel (Nat.pos_of_ne_zero subnormal),
      Nat.add_sub_cancel_left]

/-! ## The data of a format -/

/-- A datum that some pattern of the format stands for. -/
def Datum.InFormat (F : AccFormat) : Datum → Prop
  | .nan => True
  | .inf _ => True
  | .fin _ m => Representable F m

theorem unpack_inFormat (F : AccFormat) (x : Nat) : (unpack F x).InFormat F := by
  cases datum : unpack F x with
  | nan | inf => trivial
  | fin neg m => exact ⟨x, neg, datum⟩

theorem unpack_canonicalNaN (F : AccFormat) : unpack F (canonicalNaN F) = .nan := by cases F <;> decide +kernel

theorem unpack_pack_inf (F : AccFormat) (neg : Bool) : unpack F (pack F (.inf neg)) = .inf neg := by
  cases F <;> cases neg <;> decide +kernel

theorem unpack_pack {d : Datum} (h : d.InFormat F) : unpack F (pack F d) = d := by
  cases d with
  | nan => exact unpack_canonicalNaN F
  | inf neg => exact unpack_pack_inf F neg
  | fin neg m =>
    obtain ⟨c, j, hc, hj, rfl⟩ := representable_iff.mp h
    exact unpack_pack_of_form neg hc hj

theorem signBit_le (F : AccFormat) (neg : Bool) : signBit F neg ≤ 2 ^ (fracBits F + expBits F) := by
  cases neg <;> simp [signBit]

theorem packMag_lt {m : Nat} (h : Representable F m) : packMag F m < 2 ^ (fracBits F + expBits F) := by
  obtain ⟨c, j, hc, hj, rfl⟩ := representable_iff.mp h
  obtain ⟨c', j', bound, le, same, norm⟩ := exists_normalized (j := j) hc
  obtain ⟨e, frac, packed, fracLt, eLe, -⟩ := packMag_fields bound norm
  have two := two_le_expOnes F
  have ones := expOnes_lt F
  have fits : (e + 1) * 2 ^ fracBits F ≤ 2 ^ expBits F * 2 ^ fracBits F := Nat.mul_le_mul_right _ (by omega)
  rw [Nat.add_mul] at fits
  rw [same, packed, pow_add, Nat.mul_comm (2 ^ fracBits F)]
  omega

theorem pack_lt {d : Datum} (h : d.InFormat F) : pack F d < 2 ^ patternBits F := by
  cases d with
  | nan => cases F <;> decide +kernel
  | inf neg => cases F <;> cases neg <;> decide +kernel
  | fin neg m =>
    have mag := packMag_lt h
    have sign := signBit_le F neg
    rw [patternBits, pow_succ, pack]
    omega

end Pattern

/-! ## Every answer of the arithmetic is of its format (R217) -/

theorem fl_inFormat (F : AccFormat) (neg : Bool) (n k : Nat) : (fl F neg n k).InFormat F := by
  cases answer : fl F neg n k with
  | nan | inf => trivial
  | fin neg' m =>
    obtain ⟨nearest, -, -⟩ := roundingIsToNearestEven F neg n k
    obtain ⟨-, representable, -⟩ := nearest neg' m answer
    exact representable

theorem fhalf_inFormat (F : AccFormat) (d : Datum) : (fhalf F d).InFormat F := by
  cases d with
  | nan | inf => trivial
  | fin neg m => exact fl_inFormat F neg m 1

theorem minExp_difference : minExp .binary64 - minExp .binary32 = 925 := by decide

theorem widenDatum_inFormat {d : Datum} (h : d.InFormat .binary32) : (widenDatum d).InFormat .binary64 := by
  cases d with
  | nan | inf => trivial
  | fin neg m =>
    obtain ⟨c, j, hc, hj, rfl⟩ := representable_iff.mp h
    refine representable_iff.mpr ⟨c, j + 925, hc.trans (by decide), ?range, ?value⟩
    case range =>
      have narrow : expOnes .binary32 - 2 = 253 := by decide
      have wide : expOnes .binary64 - 2 = 2045 := by decide
      omega
    case value => rw [minExp_difference, Nat.mul_assoc, ← pow_add]

/-! ## On patterns (R214, R215) -/

theorem toNat_ofNat_pack {F : AccFormat} {d : Datum} (h : d.InFormat F) :
    (BitVec.ofNat (patternBits F) (pack F d)).toNat = pack F d := by
  rw [BitVec.toNat_ofNat, Nat.mod_eq_of_lt (pack_lt h)]

theorem unpack_avg2Bits32 (a b : F32) : unpack .binary32 (avg2Bits32 a b).toNat =
    avg2 .binary32 (unpack .binary32 a.toNat) (unpack .binary32 b.toNat) := by
  have inFormat := fhalf_inFormat .binary32 (fadd .binary32 (unpack .binary32 a.toNat) (unpack .binary32 b.toNat))
  exact (congrArg (unpack .binary32) (toNat_ofNat_pack inFormat)).trans (unpack_pack inFormat)

theorem unpack_avg2Bits64 (a b : F64) : unpack .binary64 (avg2Bits64 a b).toNat =
    avg2 .binary64 (unpack .binary64 a.toNat) (unpack .binary64 b.toNat) := by
  have inFormat := fhalf_inFormat .binary64 (fadd .binary64 (unpack .binary64 a.toNat) (unpack .binary64 b.toNat))
  exact (congrArg (unpack .binary64) (toNat_ofNat_pack inFormat)).trans (unpack_pack inFormat)

theorem unpack_widen64 (x : F32) : unpack .binary64 (widen64 x).toNat = widenDatum (unpack .binary32 x.toNat) := by
  have inFormat := widenDatum_inFormat (unpack_inFormat .binary32 x.toNat)
  exact (congrArg (unpack .binary64) (toNat_ofNat_pack inFormat)).trans (unpack_pack inFormat)

/-- Settles O54: the widened datum has the same sign, and its magnitude in the smaller ulps. -/
theorem widenIsExact : Obligations.WidenIsExact := fun x => by
  rw [unpack_widen64]
  exact ⟨fun neg infinite => by rw [infinite]; rfl, fun neg m finite => by rw [finite, widenDatum, minExp_difference]⟩

/-- Settles O55: both formats' patterns are sign, exponent field and fraction field. -/
theorem packInvertsUnpack : Obligations.PackInvertsUnpack :=
  ⟨fun x => pack_unpack (F := .binary32) x.isLt, fun x => pack_unpack (F := .binary64) x.isLt⟩

/-! ## The average of two data (R214) -/

theorem fl_zero (F : AccFormat) (neg : Bool) (k : Nat) : fl F neg 0 k = .fin neg 0 := by
  have zero : roundMag F 0 k = 0 := by simp [roundMag, roundHalfEven]
  rw [fl, zero, if_neg (Nat.not_lt_zero _)]

theorem signedMag_add_same (a : Bool) (m n : Nat) : signedMag a m + signedMag a n = signedMag a (m + n) := by
  cases a with
  | false => simp [signedMag]
  | true => simp only [signedMag, if_true]; omega

/-- Of two magnitudes of opposite signs the larger one's sign is the sum's. -/
theorem signedMag_add_opposite (a : Bool) {m n : Nat} (h : n ≤ m) :
    signedMag a m + signedMag (!a) n = signedMag a (m - n) := by
  cases a with
  | false => simp only [signedMag, Bool.not_false, if_true, Bool.false_eq_true, if_false]; omega
  | true => simp only [signedMag, Bool.not_true, if_true, Bool.false_eq_true, if_false]; omega

theorem signedMag_eq_zero_iff {a : Bool} {m : Nat} : signedMag a m = 0 ↔ m = 0 := by
  cases a <;> simp [signedMag]

/-- Rounding a signed magnitude by its sign and its absolute value. -/
theorem fl_signedMag (F : AccFormat) (a : Bool) {m : Nat} (nonzero : m ≠ 0) :
    fl F (decide (signedMag a m < 0)) (signedMag a m).natAbs 0 = fl F a m 0 := by
  have sign : decide (signedMag a m < 0) = a := by cases a <;> simp [signedMag]; omega
  have size : (signedMag a m).natAbs = m := by cases a <;> simp [signedMag]
  rw [sign, size]

/-- The sum of two finite data by the exact signed sum: a zero sum is −0 only for two negative operands. -/
theorem fadd_fin (F : AccFormat) (a b : Bool) (m n : Nat) :
    fadd F (.fin a m) (.fin b n) =
      if signedMag a m + signedMag b n = 0 then .fin (a && b) 0
      else fl F (decide (signedMag a m + signedMag b n < 0)) (signedMag a m + signedMag b n).natAbs 0 := by
  by_cases same : a = b
  · subst same
    rw [fadd, if_pos rfl, signedMag_add_same]
    by_cases zero : m + n = 0
    · rw [if_pos (signedMag_eq_zero_iff.mpr zero), zero, fl_zero, Bool.and_self]
    · rw [if_neg (mt signedMag_eq_zero_iff.mp zero), fl_signedMag F a zero]
  · obtain rfl : b = !a := Bool.eq_not.mpr (Ne.symm same)
    rw [fadd, if_neg same]
    obtain lt | rfl | gt := Nat.lt_trichotomy m n
    · have difference : signedMag a m + signedMag (!a) n = signedMag (!a) (n - m) := by
        rw [← signedMag_add_opposite (!a) lt.le, Bool.not_not, Int.add_comm]
      have nonzero : n - m ≠ 0 := by omega
      rw [if_neg lt.ne, if_neg lt.not_gt, difference, if_neg (mt signedMag_eq_zero_iff.mp nonzero),
        fl_signedMag F _ nonzero]
    · rw [if_pos rfl, signedMag_add_opposite a (Nat.le_refl m), Nat.sub_self,
        if_pos (signedMag_eq_zero_iff.mpr rfl), Bool.and_not_self]
    · have nonzero : m - n ≠ 0 := by omega
      rw [if_neg gt.ne', if_pos gt, signedMag_add_opposite a gt.le, if_neg (mt signedMag_eq_zero_iff.mp nonzero),
        fl_signedMag F a nonzero]

/-- Settles O52: the exact sum by the signs, then the halving of its rounding. -/
theorem averageOfFinitesIsTwoRoundedOperations : Obligations.AverageOfFinitesIsTwoRoundedOperations := by
  refine ⟨fun F a b m n => ?finite, fun F a b m => ⟨rfl, rfl, ?sameInfinity⟩, unpack_avg2Bits32, unpack_avg2Bits64⟩
  case finite =>
    rw [avg2, fadd_fin]
    generalize (if signedMag a m + signedMag b n = 0 then Datum.fin (a && b) 0
      else fl F (decide (signedMag a m + signedMag b n < 0)) (signedMag a m + signedMag b n).natAbs 0) = sum
    cases sum <;> rfl
  case sameInfinity => rw [avg2, fadd, if_pos rfl, fhalf]

/-! ## NaNs (R216) -/

theorem avg2_of_nan {F : AccFormat} {a b : Datum} (h : a = .nan ∨ b = .nan) : avg2 F a b = .nan := by
  obtain rfl | rfl := h
  · rfl
  · cases a <;> rfl

theorem avg2Bits32_of_nan {a b : F32}
    (h : avg2 .binary32 (unpack .binary32 a.toNat) (unpack .binary32 b.toNat) = .nan) :
    avg2Bits32 a b = 0x7FC00000 := by
  rw [avg2Bits32, h]; rfl

theorem avg2Bits64_of_nan {a b : F64}
    (h : avg2 .binary64 (unpack .binary64 a.toNat) (unpack .binary64 b.toNat) = .nan) :
    avg2Bits64 a b = 0x7FF8000000000000 := by
  rw [avg2Bits64, h]; rfl

/-- Settles O53: a result that is a NaN is the packed NaN datum; copies do not go through a datum. -/
theorem naNResultsAreCanonical : Obligations.NaNResultsAreCanonical := by
  refine ⟨fun a b nan => avg2Bits32_of_nan ((unpack_avg2Bits32 a b).symm.trans nan),
    fun a b operand => avg2Bits32_of_nan (avg2_of_nan operand),
    fun a b nan => avg2Bits64_of_nan ((unpack_avg2Bits64 a b).symm.trans nan),
    fun a b operand => avg2Bits64_of_nan (avg2_of_nan operand), avg2Bits32_of_nan ?_, avg2Bits64_of_nan ?_,
    fun r => ⟨decode40_measPayload r, rfl⟩, fun x nan => ?_⟩
  · decide +kernel
  · decide +kernel
  · rw [widen64, nan]; rfl

end Sys2Proof.Machine
end
